-- ==== Sys2Proof/Word.lean ====
section
/-! DEFINITION. The bit-vector types of GF8LC (spec 00_scope.md R2, R4). Everything is unsigned; bit 0 is the
least significant. -/

namespace Sys2Proof

/-- A field element of GF(2^8): bit i is the coefficient of x^i (R2). -/
abbrev Byte := BitVec 8

/-- A reduction polynomial, or an entry of IRR: 9 bits (R2). -/
abbrev Poly := BitVec 9

/-- A carryless product, or the operand of PMOD: 16 bits (R2). -/
abbrev Product := BitVec 16

/-- One word of the host port, and a command word: 32 bits (R2, 30_encoding.md R90). -/
abbrev Word := BitVec 32

/-- A byte address of the host port: 17 bits (R2, 20_memory.md R61). -/
abbrev Addr := BitVec 17

end Sys2Proof
end

