-- ==== Sys2Proof/Syntax.lean ====
section
/-! DEFINITION. The commands of GF8LC, one constructor per row of spec/opcode_table.json (30_encoding.md R94). -/

namespace Sys2Proof

/-- A command with its operands (30_encoding.md R93). The implicit operands (POLY, INV, SBOX, DEV) are state. -/
inductive Instr where
  /-- 0x0, FMT-N: the handshake alone (R121). -/
  | nop
  /-- 0x1, FMT-AB: carryless product (R122). -/
  | clmul (a b : Byte)
  /-- 0x2, FMT-P: remainder modulo POLY (R125). -/
  | pmod (p : Product)
  /-- 0x3, FMT-AB: field product modulo POLY (R126). -/
  | gfmul (a b : Byte)
  /-- 0x4, FMT-N: the inverse table (R152). -/
  | invgen
  /-- 0x5, FMT-N: the list of irreducible polynomials (R155). -/
  | irrscan
  /-- 0x6, FMT-X: the affine transform of one byte (R171). -/
  | affine (x : Byte)
  /-- 0x7, FMT-R: the S-box from the inverse table, transformed or raw (R172). -/
  | afftab (raw : Bool)
  /-- 0x8, FMT-N: the deviation matrix of the S-box (R182). -/
  | linan
  /-- 0x9, FMT-N: sort the rows of the deviation matrix (R185). -/
  | sort
deriving DecidableEq, Repr

end Sys2Proof
end

