-- ==== Sys2Proof/WellFormed.lean ====
section
/-! DEFINITION. Which command statements an assembler takes (30_encoding.md R105): an operand that does not fit its
field is refused. An `Instr` holds its operands at their field widths, so each `Instr` is well-formed by its type; the
check stands between the numbers of a source statement and an `Instr`. -/

namespace Sys2Proof

/-- A command statement of the notation of R105, its operands plain numbers. -/
inductive Source where
  | nop
  | clmul (a b : Nat)
  | pmod (p : Nat)
  | gfmul (a b : Nat)
  | invgen
  | irrscan
  | affine (x : Nat)
  | afftab (raw : Bool)
  | linan
  | sort
deriving DecidableEq, Repr

/-- "a, b and x must be in 0..255 and p in 0..65535" (R105). -/
def Source.wf : Source → Bool
  | .clmul a b => decide (a < 256) && decide (b < 256)
  | .pmod p => decide (p < 65536)
  | .gfmul a b => decide (a < 256) && decide (b < 256)
  | .affine x => decide (x < 256)
  | .nop => true
  | .invgen => true
  | .irrscan => true
  | .afftab _ => true
  | .linan => true
  | .sort => true

/-- The command a well-formed statement stands for. -/
def Source.toInstr : Source → Instr
  | .nop => .nop
  | .clmul a b => .clmul (BitVec.ofNat 8 a) (BitVec.ofNat 8 b)
  | .pmod p => .pmod (BitVec.ofNat 16 p)
  | .gfmul a b => .gfmul (BitVec.ofNat 8 a) (BitVec.ofNat 8 b)
  | .invgen => .invgen
  | .irrscan => .irrscan
  | .affine x => .affine (BitVec.ofNat 8 x)
  | .afftab raw => .afftab raw
  | .linan => .linan
  | .sort => .sort

/-- The assembler: a statement whose operands do not fit has no command (R105). -/
def Source.assemble (c : Source) : Option Instr :=
  if c.wf then some c.toInstr else none

/-- The statement that writes a command down. -/
def Instr.source : Instr → Source
  | .nop => .nop
  | .clmul a b => .clmul a.toNat b.toNat
  | .pmod p => .pmod p.toNat
  | .gfmul a b => .gfmul a.toNat b.toNat
  | .invgen => .invgen
  | .irrscan => .irrscan
  | .affine x => .affine x.toNat
  | .afftab raw => .afftab raw
  | .linan => .linan
  | .sort => .sort

/-- A command is well-formed when its operands fit their fields. -/
abbrev Instr.WellFormed (i : Instr) : Prop := i.source.wf = true

end Sys2Proof
end

