-- ==== Sys2Proof/Decode.lean ====
section
/-! DEFINITION. The decoder, the legality function and the encoder of command words (30_encoding.md §1 to §4). -/

namespace Sys2Proof

/-- Why a word is no command. -/
inductive Illegal where
  /-- Opcode 0xA to 0xF (R95). -/
  | reservedOpcode
  /-- A 1 in a bit that the command's format requires to be 0 (R96). -/
  | mustBeZero
deriving DecidableEq, Repr

/-! ## The fields of a command word (R91, R93) -/

/-- OP, w[3:0]. -/
def fieldOp (w : Word) : BitVec 4 := w.extractLsb' 0 4
/-- RAW, w[4]. -/
def fieldRaw (w : Word) : Bool := w.getLsbD 4
/-- A, and X of AFFINE: w[15:8]. -/
def fieldA (w : Word) : Byte := w.extractLsb' 8 8
/-- B, w[23:16]. -/
def fieldB (w : Word) : Byte := w.extractLsb' 16 8
/-- P of PMOD, w[23:8]. -/
def fieldP (w : Word) : Product := w.extractLsb' 8 16

/-! ## The must-be-zero bits of the five formats (R92) -/

/-- FMT-N: w[31:4] = 0. -/
def fmtN (w : Word) : Bool := w.extractLsb' 4 28 == 0#28
/-- FMT-AB and FMT-P: w[31:24] = 0 and w[7:4] = 0. -/
def fmtAB (w : Word) : Bool := w.extractLsb' 24 8 == 0#8 && w.extractLsb' 4 4 == 0#4
/-- FMT-X: w[31:16] = 0 and w[7:4] = 0. -/
def fmtX (w : Word) : Bool := w.extractLsb' 16 16 == 0#16 && w.extractLsb' 4 4 == 0#4
/-- FMT-R: w[31:5] = 0. -/
def fmtR (w : Word) : Bool := w.extractLsb' 5 27 == 0#27

/-- `legal(w)`, the total legality function of R101. -/
def legal (w : Word) : Bool :=
  match (fieldOp w).toNat with
  | 0 => fmtN w
  | 4 => fmtN w
  | 5 => fmtN w
  | 8 => fmtN w
  | 9 => fmtN w
  | 1 => fmtAB w
  | 2 => fmtAB w
  | 3 => fmtAB w
  | 6 => fmtX w
  | 7 => fmtR w
  | _ => false

/-- The command `i` if the must-be-zero bits of its format are 0. -/
def decodeAs (zero : Bool) (i : Instr) : Except Illegal Instr :=
  if zero then .ok i else .error .mustBeZero

/-- The decoder: by OP alone (R98), each format's must-be-zero bits checked (R92), everything else refused by name. -/
def decode (w : Word) : Except Illegal Instr :=
  match (fieldOp w).toNat with
  | 0 => decodeAs (fmtN w) .nop
  | 1 => decodeAs (fmtAB w) (.clmul (fieldA w) (fieldB w))
  | 2 => decodeAs (fmtAB w) (.pmod (fieldP w))
  | 3 => decodeAs (fmtAB w) (.gfmul (fieldA w) (fieldB w))
  | 4 => decodeAs (fmtN w) .invgen
  | 5 => decodeAs (fmtN w) .irrscan
  | 6 => decodeAs (fmtX w) (.affine (fieldA w))
  | 7 => decodeAs (fmtR w) (.afftab (fieldRaw w))
  | 8 => decodeAs (fmtN w) .linan
  | 9 => decodeAs (fmtN w) .sort
  | _ => .error .reservedOpcode

/-! ## The encoder (R92 and the words of R105) -/

/-- FMT-AB: `00000000 B A 0000 OP`. -/
def wordAB (op : BitVec 4) (a b : Byte) : Word := 0#8 ++ b ++ a ++ 0#4 ++ op

/-- The word of a command. -/
def encode : Instr → Word
  | .nop => 0x00000000#32
  | .clmul a b => wordAB 0x1#4 a b
  | .pmod p => 0#8 ++ p ++ 0#4 ++ 0x2#4
  | .gfmul a b => wordAB 0x3#4 a b
  | .invgen => 0x00000004#32
  | .irrscan => 0x00000005#32
  | .affine x => 0#16 ++ x ++ 0#4 ++ 0x6#4
  | .afftab raw => 0#27 ++ BitVec.ofBool raw ++ 0x7#4
  | .linan => 0x00000008#32
  | .sort => 0x00000009#32

/-- The opcode of a command (R94). -/
def Instr.opcode : Instr → BitVec 4
  | .nop => 0x0#4
  | .clmul _ _ => 0x1#4
  | .pmod _ => 0x2#4
  | .gfmul _ _ => 0x3#4
  | .invgen => 0x4#4
  | .irrscan => 0x5#4
  | .affine _ => 0x6#4
  | .afftab _ => 0x7#4
  | .linan => 0x8#4
  | .sort => 0x9#4

/-- The mask of a command's row in opcode_table.json: the bits its encoding fixes. -/
def Instr.tableMask : Instr → Word
  | .clmul _ _ => 0xFF0000FF#32
  | .pmod _ => 0xFF0000FF#32
  | .gfmul _ _ => 0xFF0000FF#32
  | .affine _ => 0xFFFF00FF#32
  | .afftab _ => 0xFFFFFFEF#32
  | .nop => 0xFFFFFFFF#32
  | .invgen => 0xFFFFFFFF#32
  | .irrscan => 0xFFFFFFFF#32
  | .linan => 0xFFFFFFFF#32
  | .sort => 0xFFFFFFFF#32

/-- The match of a command's row in opcode_table.json: the values of those bits. -/
def Instr.tableMatch : Instr → Word
  | .nop => 0x00000000#32
  | .clmul _ _ => 0x00000001#32
  | .pmod _ => 0x00000002#32
  | .gfmul _ _ => 0x00000003#32
  | .invgen => 0x00000004#32
  | .irrscan => 0x00000005#32
  | .affine _ => 0x00000006#32
  | .afftab _ => 0x00000007#32
  | .linan => 0x00000008#32
  | .sort => 0x00000009#32

/-- The command word of `nbits` bits with the number `w`, the bits above them 0. -/
def tableWord (nbits w : Nat) : Word := BitVec.ofNat 32 (w % 2 ^ nbits)

/-- The command the decoder reads from a word numbered as opcode_table.json numbers it. Every command is one word
(R90), so a longer one is none. -/
def decodeTableWord (nbits w : Nat) : Option Instr :=
  if nbits ≤ 32 then (decode (tableWord nbits w)).toOption else none

end Sys2Proof
end

