-- ==== Sys2Proof/Config.lean ====
section
/-! DEFINITION. The free values: what the spec leaves open and a run still needs (93_implementation_defined.md).
None has a body, so no proof can see a value. Each is applied to plain data of State; entries 2 to 5 and 17 of the
assumption log name them. -/

namespace Sys2Proof.Config

/-- What a command computes from, beside its free counter: the latency and what a read meets while the command
executes may depend on it (70_reset_and_hazards.md R268, 92_eei_decisions.md D21). -/
structure Inputs where
  lcmd : Word
  poly : Poly
  mem  : List Host.Cell
deriving DecidableEq, Repr

/-- The value of a byte cell of INV, SBOX or DEV that nothing has written since reset number `epoch`
(10_state.md R46; U1, U6). It stays the same until the cell is written or the next reset. Entry 3. -/
opaque unwrittenByte (epoch addr : Nat) : Byte

/-- The value of entry `n` of IRR that nothing has written since reset number `epoch` (10_state.md R39, R46; U6, U7).
Entry 3. -/
opaque unwrittenIrr (epoch n : Nat) : Poly

/-- How many events of the host go before the completion of the command accepted as draw `n`
(20_memory.md R73, 60_exceptions.md R237, 70_reset_and_hazards.md R267; U9, U10). It is finite because it is a
number; nothing bounds it. Entry 2. -/
opaque eventsBeforeCompletion (n : Nat) (inputs : Inputs) : Nat

/-- What a read of a result or of an array returns while BUSY = 1 (20_memory.md R71; U8): draw `n`. Entry 4. -/
opaque busyRead (n : Nat) (a : Addr) (inputs : Inputs) : Word

/-- What MARK holds after an INVGEN or an IRRSCAN (10_state.md R42; U13): draw `n`. Entry 5. -/
opaque markLeft (n : Nat) : BitVec 256

end Sys2Proof.Config
end

