-- ==== Sys2Proof/Machine/State.lean ====
section
/-! DEFINITION. The state of GF8LC (10_state.md) as plain data, its reset value (70_reset_and_hazards.md R260), and
the reasons a step can stop. -/

namespace Sys2Proof.Machine

/-- One thing the outside does to the machine. A read, a write and each turn of a poll is one access on the host port
(20_memory.md R60). -/
inductive HostEvent where
  /-- `MemRead(a, 4)`. -/
  | read (a : Addr)
  /-- `MemWrite(a, 4, w)`. -/
  | write (a : Addr) (w : Word)
  /-- POLL (30_encoding.md R106): read STATUS until BUSY = 0. Entry 14. -/
  | poll
  /-- The reset input rst is asserted (70_reset_and_hazards.md R260). Entry 7. -/
  | reset
deriving DecidableEq, Repr

/-- The registers of 10_state.md R20. -/
inductive Reg where
  | cmd | status | err | ie | poly | result | unres | irrcnt | gmax | valid
deriving DecidableEq, Repr

/-- Where an address of the host port leads (20_memory.md R62, R64, R65). -/
inductive Target where
  | misaligned
  | unmapped
  | reg (r : Reg)
  | inv
  | sbox
  | irr
  | dev
deriving DecidableEq, Repr

/-- The error causes, bits of ERR (10_state.md R28). -/
inductive Cause where
  /-- bit 0, R231 -/
  | illop
  /-- bit 1, R232 -/
  | busywr
  /-- bit 2, R233 -/
  | addr
  /-- bit 3, R234 -/
  | incompl
deriving DecidableEq, Repr

/-- The machine's state. The fields up to `lcmd` are the spec's; the last five are the model's own. -/
@[ext]
structure State where
  /-- STATUS.BUSY (R22). -/
  busy   : Bool
  /-- STATUS.DONE (R23). -/
  done   : Bool
  /-- STATUS.EQ1 (R24). -/
  eq1    : Bool
  /-- ERR[3:0] (R28). -/
  err    : BitVec 4
  /-- IE[1:0]: bit 0 DONEIE, bit 1 ERRIE (R29). -/
  ie     : BitVec 2
  /-- POLY[7:0]; POLY[8] is hardwired to 1 (R30), see `polyReg`. -/
  poly   : Byte
  /-- RESULT (R31). -/
  result : Product
  /-- UNRES (R32). -/
  unres  : Byte
  /-- IRRCNT (R33). -/
  irrcnt : Byte
  /-- GMAX (R34). -/
  gmax   : Byte
  /-- The written cells of INV, SBOX and DEV by byte address (R37, R38, R40; 20_memory.md R64), addresses rising. -/
  mem    : List Host.Cell
  /-- The written entries of IRR by number (R39), numbers rising. -/
  irr    : List (Nat × Poly)
  /-- INVVAL[k] is bit k (R41). -/
  invval : BitVec 256
  /-- SBVAL[k] is bit k (R41). -/
  sbval  : BitVec 256
  /-- MARK[k] is bit k (R42). -/
  mark   : BitVec 256
  /-- LCMD (R43). While BUSY = 0 it keeps the word of the last command: DESIGN CHOICE, entry 18. -/
  lcmd   : Word
  /-- The model's own: what the outside still does, next first. Entries 1, 2. -/
  host   : List HostEvent
  /-- The model's own: the word the last read returned on the port. Entry 9. -/
  rdata  : Word
  /-- The model's own: how many events of the host go before the pending completion. Entry 2. -/
  wait   : Nat
  /-- The model's own: the counter of free values drawn. Entry 17. -/
  draws  : Nat
  /-- The model's own: how many resets have been asserted. Entry 7. -/
  resets : Nat
deriving DecidableEq, Repr

/-- The machine right after reset (70_reset_and_hazards.md R260). MARK and LCMD have no reset value in the spec
(entry 6); nothing is written in any array (10_state.md R46); the last five fields are the model's own (entry 16). -/
def State.reset : State where
  busy   := false
  done   := false
  eq1    := false
  err    := 0#4
  ie     := 0#2
  poly   := 0x1B#8
  result := 0#16
  unres  := 0#8
  irrcnt := 0#8
  gmax   := 0#8
  mem    := []
  irr    := []
  invval := 0#256
  sbval  := 0#256
  mark   := 0#256
  lcmd   := 0#32
  host   := []
  rdata  := 0#32
  wait   := 0
  draws  := 0
  resets := 0

/-- Why a step stops with a fault. GF8LC has no traps (60_exceptions.md R239): no command and no access of the spec
ends here. -/
inductive Fault where
  /-- Raised by the completion when BUSY = 1 and LCMD is no legal word: a state that no run reaches, because acceptance
  latches legal words only (30_encoding.md R102). Safe. Entry 11. -/
  | latchedIllegal
deriving DecidableEq, Repr

/-- Why a step has no meaning. -/
inductive Refusal where
  /-- Raised by an arm of `exec` for a command that has no meaning yet; no arm does. Safe. -/
  | notModelled (mnemonic : String)
deriving DecidableEq, Repr

end Sys2Proof.Machine
end

