-- ==== Sys2Proof/Machine/Ops.lean ====
section
/-! DEFINITION. The operations that everything else is written over: bit functions (00_scope.md R5, R6), sparse
memories, the cells of the arrays, the writes of results, `raise Error`, and the handshake of a command. -/

namespace Sys2Proof.Machine

/-! ## Bit functions -/

/-- `parity(v)`: the XOR of all the bits of v (R5). -/
def parity (v : Byte) : Bool :=
  v.getLsbD 0 ^^ v.getLsbD 1 ^^ v.getLsbD 2 ^^ v.getLsbD 3 ^^ v.getLsbD 4 ^^ v.getLsbD 5 ^^ v.getLsbD 6 ^^ v.getLsbD 7

/-- `rotl8(v, n)`: left rotation by n mod 8 positions (R6). -/
def rotl8 (v : Byte) (n : Nat) : Byte := (v <<< (n % 8)) ||| (v >>> (8 - n % 8))

/-! ## Sparse memories

A list of (key, value) pairs. An unlisted key has no stored value; what a read of it gives is decided in `readByte` and
`readIrr`, once. -/

/-- The one canonical form: keys strictly rising. An unlisted key reads as a free value, which nothing can equal
provably, so a write always lists what it writes (entry 8). -/
abbrev Memory.wf {α : Type} (m : List (Nat × α)) : Prop := (m.map Prod.fst).Pairwise (· < ·)

/-- The stored value at a key. -/
def Memory.get? {α : Type} : List (Nat × α) → Nat → Option α
  | [], _ => none
  | (b, v) :: m, a => if b < a then Memory.get? m a else if b = a then some v else none

/-- `n` values from key `a` on; `dflt` gives the value of an unlisted key. One pass over the list. -/
def Memory.readRange {α : Type} (dflt : Nat → α) (m : List (Nat × α)) (a : Nat) : Nat → List α
  | 0 => []
  | n + 1 =>
    let rest := m.dropWhile (fun c => decide (c.1 < a))
    (Memory.get? rest a).getD (dflt a) :: Memory.readRange dflt rest (a + 1) n

/-- Store the values `vs` at the keys from `a` on; every other key keeps what it has. -/
def Memory.writeRange {α : Type} (m : List (Nat × α)) (a : Nat) (vs : List α) : List (Nat × α) :=
  m.filter (fun c => decide (c.1 < a)) ++ vs.zipIdx.map (fun c => (a + c.2, c.1)) ++
    m.filter (fun c => decide (a + vs.length ≤ c.1))

/-! ## The array cells (20_memory.md R64, 10_state.md R37 to R40) -/

/-- Byte address of INV[0]. -/
def invBase : Nat := 0x00100
/-- Byte address of SBOX[0]. -/
def sboxBase : Nat := 0x00200
/-- Byte address of IRR[0]. -/
def irrBase : Nat := 0x00400
/-- Byte address of DEV[0][0]. -/
def devBase : Nat := 0x10000

/-- The byte cell at a byte address: what was last written, else the unspecified value of this reset (R46). -/
def readByte (s : State) (a : Nat) : Byte :=
  (Memory.get? s.mem a).getD (Config.unwrittenByte s.resets a)

/-- `n` byte cells from a byte address on. -/
def readBytes (s : State) (a n : Nat) : List Byte :=
  Memory.readRange (Config.unwrittenByte s.resets) s.mem a n

/-- Entry `n` of IRR: what IRRSCAN last wrote, else the unspecified value of this reset (R39, R46). -/
def readIrr (s : State) (n : Nat) : Poly :=
  (Memory.get? s.irr n).getD (Config.unwrittenIrr s.resets n)

/-- Write byte cells from a byte address on. -/
def writeBytes (a : Nat) (vs : List Byte) (s : State) : State :=
  { s with mem := Memory.writeRange s.mem a vs }

/-- A word of a packed array at a byte address: lane b is the cell at a + b (20_memory.md R66). -/
def readWord (s : State) (a : Nat) : Word :=
  readByte s (a + 3) ++ readByte s (a + 2) ++ readByte s (a + 1) ++ readByte s a

/-- The four lanes of a word, lane 0 first (20_memory.md R66). -/
def lanes (w : Word) : List Byte :=
  [w.extractLsb' 0 8, w.extractLsb' 8 8, w.extractLsb' 16 8, w.extractLsb' 24 8]

/-- Valid bits with the four of one word, from entry `k` on, set (10_state.md R41). -/
def setFour (v : BitVec 256) (k : Nat) : BitVec 256 := v ||| (0xF#256 <<< k)

/-- A host word write to INV that is not dropped: the cells and their valid bits (R41, R68). -/
def storeInvWord (a : Nat) (w : Word) (s : State) : State :=
  { writeBytes a (lanes w) s with invval := setFour s.invval (a - invBase) }

/-- A host word write to SBOX that is not dropped: the cells and their valid bits (R41, R68). -/
def storeSboxWord (a : Nat) (w : Word) (s : State) : State :=
  { writeBytes a (lanes w) s with sbval := setFour s.sbval (a - sboxBase) }

/-! ## What commands write -/

/-- RESULT <- v (R31). -/
def writeResult (v : Product) (s : State) : State := { s with result := v }

/-- All of INV and every INVVAL bit (R41, R152). -/
def writeInv (t : List Byte) (s : State) : State :=
  { writeBytes invBase t s with invval := BitVec.allOnes 256 }

/-- UNRES <- u (R32). -/
def writeUnres (u : Byte) (s : State) : State := { s with unres := u }

/-- IRR[0..] <- the list, and IRRCNT <- its length (R33, R39, R155). -/
def writeIrr (rs : List Poly) (s : State) : State :=
  { s with irr := Memory.writeRange s.irr 0 rs, irrcnt := BitVec.ofNat 8 rs.length }

/-- All of SBOX and every SBVAL bit (R41, R172). -/
def writeSbox (t : List Byte) (s : State) : State :=
  { writeBytes sboxBase t s with sbval := BitVec.allOnes 256 }

/-- DEV rows 1..255 <- the cells, row by row; row 0 is not written (R40). -/
def writeDev (cells : List Byte) (s : State) : State := writeBytes (devBase + 256) cells s

/-- GMAX <- v (R34). -/
def writeGmax (v : Byte) (s : State) : State := { s with gmax := v }

/-- MARK is scratch: between commands it holds any value (R42, U13), a free value. Entry 5. -/
def leaveMark (s : State) : State := { s with mark := Config.markLeft s.draws, draws := s.draws + 1 }

/-! ## Errors

GF8LC has no traps (60_exceptions.md R239): `raise` is the whole of taking an exception, and there is nothing to return
from (R240). -/

/-- The number of a cause's bit in ERR (10_state.md R28). -/
def Cause.bit : Cause → Nat
  | .illop => 0
  | .busywr => 1
  | .addr => 2
  | .incompl => 3

/-- `raise Error(C)`: set bit C of ERR, no other effect (60_exceptions.md R230, R235). -/
def raise (c : Cause) (s : State) : State := { s with err := s.err ||| (1#4 <<< c.bit) }

/-! ## The handshake of a command -/

/-- POLY as every reader sees it: 9 bits, bit 8 hardwired to 1 (10_state.md R30). -/
def polyReg (s : State) : Poly := 1#1 ++ s.poly

/-- VALID.INVFULL: the AND of the 256 INVVAL bits (10_state.md R35). -/
def invFull (s : State) : Bool := s.invval == BitVec.allOnes 256

/-- VALID.SBFULL: the AND of the 256 SBVAL bits (10_state.md R35). -/
def sbFull (s : State) : Bool := s.sbval == BitVec.allOnes 256

/-- The accepted branch of 30_encoding.md R102: LCMD <- w, DONE <- 0, BUSY <- 1. When the completion comes is drawn
here (20_memory.md R73). Entry 2. -/
def accept (w : Word) (s : State) : State :=
  { s with
    lcmd := w
    done := false
    busy := true
    wait := Config.eventsBeforeCompletion s.draws { lcmd := w, poly := polyReg s, mem := s.mem }
    draws := s.draws + 1 }

/-- A command issue, `MemWrite(0x000, 4, w)`: the branches of 30_encoding.md R102 in order. -/
def issue (w : Word) (s : State) : State :=
  if s.busy then raise .busywr s
  else if !legal w then raise .illop s
  else if fieldOp w == 0x7#4 && !invFull s then raise .incompl s
  else if fieldOp w == 0x8#4 && !sbFull s then raise .incompl s
  else accept w s

/-- The end of `complete(LCMD)`: BUSY <- 0, DONE <- 1 (30_encoding.md R104). No completion is pending after it.
LCMD keeps the completed word: what it holds while BUSY = 0 is open (10_state.md R43; U14), DESIGN CHOICE, entry 18. -/
def finish (s : State) : State := { s with busy := false, done := true, wait := 0 }

end Sys2Proof.Machine
end

