-- ==== Sys2Proof/Machine/Operands.lean ====
section
/-! DEFINITION. The implicit operands of the commands (30_encoding.md R93): the tables and rows read from the arrays.
The explicit ones are fields of the word (Decode.lean); POLY is `polyReg` (Ops.lean). -/

namespace Sys2Proof.Machine

/-- INV[0..255] (10_state.md R37). -/
def invTable (s : State) : List Byte := readBytes s invBase 256

/-- SBOX[0..255] (10_state.md R38). -/
def sboxTable (s : State) : List Byte := readBytes s sboxBase 256

/-- DEV[i][0..255] (10_state.md R40). -/
def devRow (s : State) (i : Nat) : List Byte := readBytes s (devBase + 256 * i) 256

/-- The byte address of DEV[i][j] (10_state.md R40). -/
def devAddr (i j : Nat) : Nat := devBase + 256 * i + j

end Sys2Proof.Machine
end

