-- ==== Sys2Proof/Machine/Affine.lean ====
section
/-! DEFINITION. The affine transform: AFFINE, AFFTAB (42_affine.md). -/

namespace Sys2Proof.Machine

/-- `aff(x)`: bit i is the parity of x under the mask rotl8(0xF1, i); then XOR 0x63 (R170, 90_conflicts.md C2). -/
def aff (x : Byte) : Byte :=
  [0, 1, 2, 3, 4, 5, 6, 7].foldl
    (fun y i => if parity (rotl8 0xF1#8 i &&& x) then y ||| (1#8 <<< i) else y) 0x00#8 ^^^ 0x63#8

/-- AFFINE: RESULT <- zext(aff(x)) (R171). -/
def execAffine (x : Byte) (s : State) : Host.Outcome State Fault Refusal :=
  .next (writeResult ((aff x).setWidth 16) s)

/-- AFFTAB: SBOX <- aff(INV), or INV itself if raw; SBVAL <- all 1 (R172). -/
def execAfftab (raw : Bool) (s : State) : Host.Outcome State Fault Refusal :=
  .next (writeSbox ((invTable s).map (fun v => if raw then v else aff v)) s)

end Sys2Proof.Machine
end

