-- ==== Sys2Proof/Machine/Flags.lean ====
section
/-! DEFINITION. The flags that are computed and not stored, STATUS and VALID as words, the irq output, and the one flag
commands write (10_state.md R22 to R27, R35, R44). -/

namespace Sys2Proof.Machine

/-- STATUS.NIRR reads (UNRES != 0) (R25). -/
def nirr (s : State) : Bool := s.unres != 0#8

/-- STATUS.ERRP reads (ERR[3:0] != 0) (R26). -/
def errp (s : State) : Bool := s.err != 0#4

/-- The irq output: `(IE.DONEIE & STATUS.DONE) | (IE.ERRIE & STATUS.ERRP)` (R44). -/
def irq (s : State) : Bool := (s.ie.getLsbD 0 && s.done) || (s.ie.getLsbD 1 && errp s)

/-- STATUS as a word: bits 0 to 5 are BUSY, DONE, EQ1, NIRR, ERRP, IRQ, the rest reads 0 (R22 to R27). -/
def statusWord (s : State) : Word :=
  0#26 ++ BitVec.ofBool (irq s) ++ BitVec.ofBool (errp s) ++ BitVec.ofBool (nirr s) ++ BitVec.ofBool s.eq1 ++
    BitVec.ofBool s.done ++ BitVec.ofBool s.busy

/-- VALID as a word: bit 0 INVFULL, bit 1 SBFULL, the rest reads 0 (R35). -/
def validWord (s : State) : Word := 0#30 ++ BitVec.ofBool (sbFull s) ++ BitVec.ofBool (invFull s)

/-- The reducer's test: EQ1 <- (v == 0x01) (R24). -/
def writeEq1 (v : Byte) (s : State) : State := { s with eq1 := v == 0x01#8 }

end Sys2Proof.Machine
end

