-- ==== Sys2Proof/Machine/Field.lean ====
section
/-! DEFINITION. Field arithmetic: NOP, CLMUL, PMOD, GFMUL (40_field_arith.md). -/

namespace Sys2Proof.Machine

/-- `clmul(a, b)`: the carryless product by shift and XOR (R120). -/
def clmul (a b : Byte) : Product :=
  [0, 1, 2, 3, 4, 5, 6, 7].foldl (fun t j => if b.getLsbD j then t ^^^ (a.setWidth 16 <<< j) else t) 0#16

/-- `reduce(p, r)`: shift-and-XOR long division at the fixed positions 15 down to 8 (R123). -/
def reduce (p : Product) (r : Poly) : Byte :=
  ([15, 14, 13, 12, 11, 10, 9, 8].foldl
    (fun t pos => if t.getLsbD pos then t ^^^ (r.setWidth 16 <<< (pos - 8)) else t) p).setWidth 8

/-- NOP: no effect (R121); the handshake is the completion's. -/
def execNop (s : State) : Host.Outcome State Fault Refusal := .next s

/-- CLMUL: RESULT <- clmul(a, b) (R122). -/
def execClmul (a b : Byte) (s : State) : Host.Outcome State Fault Refusal :=
  .next (writeResult (clmul a b) s)

/-- The reducer's two outputs: RESULT <- zext(v), EQ1 <- (v == 1) (R125, R126). -/
def writeReduced (v : Byte) (s : State) : State := writeEq1 v (writeResult (v.setWidth 16) s)

/-- PMOD: the remainder of p modulo POLY (R125). -/
def execPmod (p : Product) (s : State) : Host.Outcome State Fault Refusal :=
  .next (writeReduced (reduce p (polyReg s)) s)

/-- GFMUL: the product of a and b modulo POLY (R126). -/
def execGfmul (a b : Byte) (s : State) : Host.Outcome State Fault Refusal :=
  .next (writeReduced (reduce (clmul a b) (polyReg s)) s)

end Sys2Proof.Machine
end

