-- ==== Sys2Proof/Machine/Inverse.lean ====
section
/-! DEFINITION. The inverse finder and the irreducibility scanner: INVGEN, IRRSCAN (41_inverse_irreducible.md). -/

namespace Sys2Proof.Machine

/-- What the finder builds: T, MARK and the count u (R150). -/
structure Finder where
  table : List Byte
  mark  : BitVec 256
  unres : Nat
deriving DecidableEq, Repr

/-- Before the loop of R150: T[0] = 0, T[1] = 1, both marked. Every other entry is written once before it is read
(R151), so its value here cannot be seen. -/
def finderStart : Finder where
  table := 0x00#8 :: 0x01#8 :: List.replicate 254 0x00#8
  mark := 3#256
  unres := 0

/-- Whether j is the inverse of i modulo r: the test of the inner loop (R150). -/
def inversePair (r : Poly) (i j : Nat) : Bool :=
  reduce (clmul (BitVec.ofNat 8 i) (BitVec.ofNat 8 j)) r == 0x01#8

/-- The inner loop of R150: the first j in i..255 that passes. -/
def findInverse (r : Poly) (i : Nat) : Option Nat :=
  (List.range' i (256 - i)).find? (inversePair r i)

/-- One round of the outer loop of R150. -/
def finderStep (r : Poly) (f : Finder) (i : Nat) : Finder :=
  if f.mark.getLsbD i then f
  else
    match findInverse r i with
    | some j =>
      { f with
        table := (f.table.set i (BitVec.ofNat 8 j)).set j (BitVec.ofNat 8 i)
        mark := f.mark ||| (1#256 <<< i) ||| (1#256 <<< j) }
    | none => { f with table := f.table.set i 0x00#8, unres := f.unres + 1 }

/-- `invfind(r)` (R150). -/
def invfind (r : Poly) : Finder := (List.range' 2 254).foldl (finderStep r) finderStart

/-- INVGEN: INV <- T, INVVAL <- all 1, UNRES <- u (R152). -/
def execInvgen (s : State) : Host.Outcome State Fault Refusal :=
  let f := invfind (polyReg s)
  .next (leaveMark (writeUnres (BitVec.ofNat 8 f.unres) (writeInv f.table s)))

/-- The candidates of R154: the 128 odd values of [0x101, 0x1FF], rising. -/
def candidates : List Poly := (List.range 128).map (fun n => BitVec.ofNat 9 (0x101 + 2 * n))

/-- The candidates for which every byte finds an inverse (R155). -/
def irreducibles : List Poly := candidates.filter (fun r => (invfind r).unres == 0)

/-- IRRSCAN: IRR[0..n-1] <- the irreducible candidates, IRRCNT <- n (R155). -/
def execIrrscan (s : State) : Host.Outcome State Fault Refusal :=
  .next (leaveMark (writeIrr irreducibles s))

end Sys2Proof.Machine
end

