-- ==== Sys2Proof/Machine/Linear.lean ====
section
/-! DEFINITION. The linear analyzer and the row sorter: LINAN, SORT (43_linear_analysis.md). -/

namespace Sys2Proof.Machine

/-- The tallies of one cell (R180). -/
structure Tally where
  eq  : Nat
  ne  : Nat
  sum : Nat
deriving DecidableEq, Repr

/-- One input byte k with its S-box value v, under output mask i and input mask j (R180). -/
def tallyStep (i j : Byte) (t : Tally) (v k : Byte) : Tally :=
  if j == 0#8 || parity (j &&& k) then
    if parity (v &&& i) then { t with eq := t.eq + 1, sum := t.sum + 1 }
    else { t with ne := t.ne + 1, sum := t.sum + 1 }
  else t

/-- `cell(S, i, j)`: the tallies over all input bytes k, S[k] being entry k of the table (R180). -/
def tally (S : List Byte) (i j : Byte) : Tally :=
  S.zipIdx.foldl (fun t c => tallyStep i j t c.1 (BitVec.ofNat 8 c.2)) { eq := 0, ne := 0, sum := 0 }

/-- `D(i, j) = 128 * (sum - 2 * min(eq, ne)) / sum` (R181). -/
def deviation (S : List Byte) (i j : Byte) : Byte :=
  let t := tally S i j
  BitVec.ofNat 8 (128 * (t.sum - 2 * min t.eq t.ne) / t.sum)

/-- Row i of the deviation matrix: j in 0..255 (R182). -/
def deviationRow (S : List Byte) (i : Nat) : List Byte :=
  (List.range 256).map (fun j => deviation S (BitVec.ofNat 8 i) (BitVec.ofNat 8 j))

/-- The rows that LINAN and SORT work on: 1..255 (R182, R185). -/
def usedRows : List Nat := List.range' 1 255

/-- LINAN: DEV rows 1..255 <- the deviations of SBOX (R182). -/
def execLinan (s : State) : Host.Outcome State Fault Refusal :=
  .next (writeDev (usedRows.flatMap (deviationRow (sboxTable s))) s)

/-- `sortrow(v)`: the values in non-decreasing order (R184). -/
def sortrow (v : List Byte) : List Byte := v.insertionSort (fun x y => x ≤ y)

/-- The last element of a sorted row, the row's maximum (R185). -/
def rowLast (v : List Byte) : Byte := v.getD 255 0#8

/-- The larger of two deviations. -/
def maxByte (x y : Byte) : Byte := if x ≤ y then y else x

/-- SORT: each of DEV rows 1..255 <- its sorted row; GMAX <- the largest last element (R185). -/
def execSort (s : State) : Host.Outcome State Fault Refusal :=
  let rows := usedRows.map (fun i => sortrow (devRow s i))
  .next (writeGmax ((rows.map rowLast).foldl maxByte 0#8) (writeDev rows.flatten s))

end Sys2Proof.Machine
end

