-- ==== Sys2Proof/Machine/Dispatch.lean ====
section
/-! DEFINITION. `execute(LCMD)` (30_encoding.md R104): one arm per command. -/

namespace Sys2Proof.Machine

/-- The meaning of a command. It is total and stops on no command (R104). -/
def exec (i : Instr) (s : State) : Host.Outcome State Fault Refusal :=
  match i with
  | .nop => Sys2Proof.Machine.execNop s
  | .clmul a b => Sys2Proof.Machine.execClmul a b s
  | .pmod p => Sys2Proof.Machine.execPmod p s
  | .gfmul a b => Sys2Proof.Machine.execGfmul a b s
  | .invgen => Sys2Proof.Machine.execInvgen s
  | .irrscan => Sys2Proof.Machine.execIrrscan s
  | .affine x => Sys2Proof.Machine.execAffine x s
  | .afftab raw => Sys2Proof.Machine.execAfftab raw s
  | .linan => Sys2Proof.Machine.execLinan s
  | .sort => Sys2Proof.Machine.execSort s

end Sys2Proof.Machine
end

