-- ==== Sys2Proof/Machine/Port.lean ====
section
/-! DEFINITION. The host port: the address map, reads, writes, the reset input, and one step of the HOST agent
(20_memory.md, 60_exceptions.md §1, 70_reset_and_hazards.md §1). -/

namespace Sys2Proof.Machine

/-- The register at an aligned offset below 0x100, if the map lists it (10_state.md R20). -/
def regAt : Nat → Target
  | 0x000 => .reg .cmd
  | 0x004 => .reg .status
  | 0x008 => .reg .err
  | 0x00C => .reg .ie
  | 0x010 => .reg .poly
  | 0x014 => .reg .result
  | 0x018 => .reg .unres
  | 0x01C => .reg .irrcnt
  | 0x020 => .reg .gmax
  | 0x024 => .reg .valid
  | _ => .unmapped

/-- The address map (20_memory.md R62, R64, R65): alignment first, then the range. -/
def locate (a : Addr) : Target :=
  let n := a.toNat
  if n % 4 ≠ 0 then .misaligned
  else if n < 0x00100 then regAt n
  else if n < 0x00200 then .inv
  else if n < 0x00300 then .sbox
  else if n < 0x00400 then .unmapped
  else if n < 0x00600 then .irr
  else if n < 0x10000 then .unmapped
  else .dev

/-- The address of STATUS (10_state.md R20). -/
def statusAddr : Addr := 0x00004#17

/-! ## Reads -/

/-- A register as its rule says it reads; reserved bits read 0, and CMD reads 0 (10_state.md R20 to R35). -/
def regWord (s : State) : Reg → Word
  | .cmd => 0#32
  | .status => statusWord s
  | .err => 0#28 ++ s.err
  | .ie => 0#30 ++ s.ie
  | .poly => 0#23 ++ polyReg s
  | .result => 0#16 ++ s.result
  | .unres => 0#24 ++ s.unres
  | .irrcnt => 0#24 ++ s.irrcnt
  | .gmax => 0#24 ++ s.gmax
  | .valid => validWord s

/-- What a read returns while the core is idle (20_memory.md R62, R65, R66, R69; IRR: 10_state.md R39). -/
def idleWord (s : State) (a : Addr) : Word :=
  match locate a with
  | .misaligned => 0#32
  | .unmapped => 0#32
  | .reg r => regWord s r
  | .inv => readWord s a.toNat
  | .sbox => readWord s a.toNat
  | .irr => 0#23 ++ readIrr s ((a.toNat - irrBase) / 4)
  | .dev => readWord s a.toNat

/-- The locations whose read is unspecified while BUSY = 1 (20_memory.md R71). CMD still reads 0 (entry 12). -/
def hiddenWhileBusy : Target → Bool
  | .misaligned => false
  | .unmapped => false
  | .reg .cmd => false
  | .reg .status => false
  | .reg .err => false
  | .reg .ie => false
  | .reg .poly => false
  | .reg .result => true
  | .reg .unres => true
  | .reg .irrcnt => true
  | .reg .gmax => true
  | .reg .valid => true
  | .inv => true
  | .sbox => true
  | .irr => true
  | .dev => true

/-- The accesses that raise ADDR (60_exceptions.md R233). -/
def badAddress : Target → Bool
  | .misaligned => true
  | .unmapped => true
  | .reg _ => false
  | .inv => false
  | .sbox => false
  | .irr => false
  | .dev => false

/-- `MemRead(a, 4)`. The word goes to the port; the state changes only by ADDR (R69). A busy read of a result or an array
draws a fresh free value (R71, U8; entry 4). -/
def hostRead (a : Addr) (s : State) : State :=
  if badAddress (locate a) then raise .addr { s with rdata := 0#32 }
  else if s.busy && hiddenWhileBusy (locate a) then
    { s with
      rdata := Config.busyRead s.draws a { lcmd := s.lcmd, poly := polyReg s, mem := s.mem }
      draws := s.draws + 1 }
  else { s with rdata := idleWord s a }

/-! ## Writes -/

/-- A write that is dropped with BUSYWR while BUSY = 1 and has the effect `f` otherwise (20_memory.md R71). -/
def unlessBusy (f : State → State) (s : State) : State :=
  if s.busy then raise .busywr s else f s

/-- A write to a register (10_state.md R21 to R36). -/
def writeReg (r : Reg) (w : Word) (s : State) : State :=
  match r with
  | .cmd => issue w s
  | .status => if w.getLsbD 1 then { s with done := false } else s
  | .err => { s with err := s.err &&& ~~~(w.extractLsb' 0 4) }
  | .ie => { s with ie := w.extractLsb' 0 2 }
  | .poly => unlessBusy (fun t => { t with poly := w.extractLsb' 0 8 }) s
  | .result => s
  | .unres => s
  | .irrcnt => s
  | .gmax => s
  | .valid => s

/-- `MemWrite(a, 4, w)` (20_memory.md R62, R65, R68, R71; order of the checks: 60_exceptions.md R236). -/
def hostWrite (a : Addr) (w : Word) (s : State) : State :=
  match locate a with
  | .misaligned => raise .addr s
  | .unmapped => raise .addr s
  | .reg r => writeReg r w s
  | .inv => unlessBusy (storeInvWord a.toNat w) s
  | .sbox => unlessBusy (storeSboxWord a.toNat w) s
  | .irr => s
  | .dev => unlessBusy (writeBytes a.toNat (lanes w)) s

/-! ## Reset and the HOST agent -/

/-- The reset input (70_reset_and_hazards.md R260, R261): every piece of the spec's state takes its reset value, the
executing command is abandoned, and every array cell is unspecified anew. What the outside does next, and what it last
read, is not the core's and stays. Entry 7. -/
def assertReset (s : State) : State :=
  { State.reset with host := s.host, rdata := s.rdata, draws := s.draws, resets := s.resets + 1 }

/-- One event of the outside. A poll reads STATUS and stays at the head while the word it read says BUSY (R106). -/
def hostEvent (e : HostEvent) (s : State) : State :=
  match e with
  | .read a => hostRead a s
  | .write a w => hostWrite a w s
  | .poll =>
    let t := hostRead statusAddr s
    if t.rdata.getLsbD 0 then { t with host := .poll :: t.host } else t
  | .reset => assertReset s

/-- A turn of the HOST: its next event, one fewer before the pending completion. With nothing left to do the machine
idles (70_reset_and_hazards.md R260). Entry 15. -/
def hostStep (s : State) : State :=
  match s.host with
  | [] => s
  | e :: rest => hostEvent e { s with host := rest, wait := s.wait - 1 }

/-- Whether the next step is the CORE's: a command is executing (30_encoding.md R104), and no event of the host goes
before its completion. Entry 2. -/
def coreMoves (s : State) : Bool := s.busy && (s.wait == 0 || s.host.isEmpty)

end Sys2Proof.Machine
end

