-- ==== Sys2Proof/Machine/Complete.lean ====
section
/-! DEFINITION. The one step of the CORE agent, `complete(LCMD)` (30_encoding.md R104). -/

namespace Sys2Proof.Machine

/-- An outcome with the end of the handshake added to its next state. -/
def finishOutcome : Host.Outcome State Fault Refusal → Host.Outcome State Fault Refusal
  | .next t => .next (finish t)
  | .fault f => .fault f
  | .refused r => .refused r

/-- `complete(LCMD)`: decode the latched word, execute it, BUSY <- 0, DONE <- 1, all in one transition (R104). A latched
word that is no command is a state no run reaches (R102; entry 11). -/
def complete (s : State) : Host.Outcome State Fault Refusal :=
  match decode s.lcmd with
  | .ok i => finishOutcome (exec i s)
  | .error _ => .fault .latchedIllegal

/-- `s` as an acceptance of the word `w` leaves the handshake, its completion due at once: LCMD, DONE, BUSY of R102, and
no event of the host before it. Entry 1. -/
def latch (w : Word) (s : State) : State := { s with lcmd := w, done := false, busy := true, wait := 0 }

end Sys2Proof.Machine
end

