-- ==== Sys2Proof/Machine/Step.lean ====
section
/-! DEFINITION. One step of the machine: one step of the CORE or one of the HOST, in one total order (20_memory.md R72,
R73; 60_exceptions.md R237). -/

namespace Sys2Proof.Machine

/-- One step. `coreMoves` says whose it is; the two are never merged (R237). -/
def step (s : State) : Host.Outcome State Fault Refusal :=
  if coreMoves s then complete s else .next (hostStep s)

/-- `s` with a command word accepted and due: the very next step completes exactly it. GF8LC fetches nothing
(20_memory.md R76), so this stands for the acceptance of the word. Entry 1. -/
def State.withFetchWord (s : State) (nbits w : Nat) : State := latch (tableWord nbits w) s

end Sys2Proof.Machine
end

