-- ==== Sys2Proof/Safety.lean ====
section
/-! DEFINITION. The terms claims are stated in: whose turn it is, what a run may not change, and the invariant of every
state a run reaches. -/

namespace Sys2Proof.Machine

/-- The next step is the HOST's, and `e` is what it does. -/
def State.HostTurn (s : State) (e : HostEvent) (rest : List HostEvent) : Prop :=
  s.host = e :: rest ∧ coreMoves s = false

/-- The next step is the CORE's completion of the command `i`. -/
def State.CoreTurn (s : State) (i : Instr) : Prop :=
  coreMoves s = true ∧ decode s.lcmd = .ok i

/-- The state in which the event at the head of `host` meets the core: the event is gone from the list and counted. -/
def State.popped (s : State) (rest : List HostEvent) : State := { s with host := rest, wait := s.wait - 1 }

/-- Every byte cell outside `lo ≤ a < hi` reads in `t` as it reads in `s`. -/
def CellsKeptOutside (s t : State) (lo hi : Nat) : Prop :=
  ∀ a, a < lo ∨ hi ≤ a → readByte t a = readByte s a

/-- A step is safe when it does not stop. -/
def State.StepSafe (s : State) : Prop := ∃ t, step s = .next t

/-- `n` steps lead from `s` to `t`. -/
def StepsTo : Nat → State → State → Prop
  | 0, s, t => t = s
  | n + 1, s, t => ∃ u, step s = .next u ∧ StepsTo n u t

/-- A cell of the deviation matrix, DEV[i][j] (10_state.md R40). -/
def devCell (s : State) (i j : Nat) : Byte := readByte s (devAddr i j)

/-- The addresses of the words of INV, SBOX and DEV (20_memory.md R64). -/
def PackedWord (a : Addr) : Prop :=
  a.toNat % 4 = 0 ∧ ((0x00100 ≤ a.toNat ∧ a.toNat < 0x00300) ∨ 0x10000 ≤ a.toNat)

/-- A polynomial of degree 8 without a factor of degree 1 to 7 (00_scope.md §5). -/
def IrreduciblePoly (r : Poly) : Prop :=
  ¬ ∃ f g : Byte, 2 ≤ f.toNat ∧ 2 ≤ g.toNat ∧ clmul f g = r.setWidth 16

/-- A byte whose product with `y` is 1 modulo `r` exists. -/
def Invertible (r : Poly) (x : Byte) : Prop := ∃ y : Byte, reduce (clmul x y) r = 0x01#8

/-- The invariant. It holds at reset and every step keeps it; it rules out the states no run reaches. -/
structure State.Inv (s : State) : Prop where
  /-- The byte memory is in its canonical form. -/
  memWf : Memory.wf s.mem
  /-- Only cells of INV, SBOX and DEV are listed (20_memory.md R64). -/
  memMapped : ∀ c ∈ s.mem, (0x00100 ≤ c.1 ∧ c.1 < 0x00300) ∨ (0x10000 ≤ c.1 ∧ c.1 < 0x20000)
  /-- IRR is in its canonical form. -/
  irrWf : Memory.wf s.irr
  /-- Only the 128 entries of IRR are listed (10_state.md R39). -/
  irrMapped : ∀ c ∈ s.irr, c.1 < 128
  /-- INVVAL records exactly which INV entries have been written (10_state.md R46). -/
  invRecorded : ∀ k < 256, s.invval.getLsbD k = (Memory.get? s.mem (invBase + k)).isSome
  /-- SBVAL records exactly which SBOX entries have been written (10_state.md R46). -/
  sbRecorded : ∀ k < 256, s.sbval.getLsbD k = (Memory.get? s.mem (sboxBase + k)).isSome
  /-- UNRES lies in 0..254 (10_state.md R32). -/
  unresRange : s.unres.toNat ≤ 254
  /-- IRRCNT lies in 0..128 (10_state.md R33). -/
  irrcntRange : s.irrcnt.toNat ≤ 128
  /-- IRR[0..IRRCNT-1] have been written (10_state.md R39). -/
  irrListed : ∀ n < s.irrcnt.toNat, (Memory.get? s.irr n).isSome = true
  /-- RESULT never has more than 15 significant bits (90_conflicts.md C5). -/
  resultTop : s.result.getLsbD 15 = false
  /-- An executing command is a legal one (30_encoding.md R102). -/
  busyLegal : s.busy = true → legal s.lcmd = true
  /-- DONE is 0 while a command executes (10_state.md R22, R23). -/
  busyNotDone : s.busy = true → s.done = false
  /-- An executing AFFTAB has all its INV entries (30_encoding.md R102). -/
  busyInvFull : s.busy = true → fieldOp s.lcmd = 0x7#4 → invFull s = true
  /-- An executing LINAN has all its SBOX entries (30_encoding.md R102). -/
  busySbFull : s.busy = true → fieldOp s.lcmd = 0x8#4 → sbFull s = true
  /-- No completion is pending while the core is idle. -/
  idleWait : s.busy = false → s.wait = 0

end Sys2Proof.Machine
end

