-- ==== Sys2Proof/Certificates/Slice0/Obligations.lean ====
section
/-! DEFINITION. The statements for the provers, in the order of OBLIGATIONS.json. -/

open Sys2Proof Sys2Proof.Machine

/-! ## Encoding -/

/-- R92, R93, R105: decoding the word of a command gives the command back, every operand at every value. -/
def Obligations.DecodeOfEncode : Prop :=
  ∀ i : Instr, i.WellFormed → decode (encode i) = .ok i

/-- R92, R98: a word has one meaning; the command it decodes to has no other word. -/
def Obligations.EncodeOfDecode : Prop :=
  ∀ (w : Word) (i : Instr), decode w = .ok i → encode i = w

/-- R101: the legality function, read off the word as a number. -/
def Obligations.LegalWordsInNumbers : Prop :=
  ∀ w : Word, legal w = true ↔
    ((w.toNat % 16 = 0 ∨ w.toNat % 16 = 4 ∨ w.toNat % 16 = 5 ∨ w.toNat % 16 = 8 ∨ w.toNat % 16 = 9) ∧
      w.toNat / 16 = 0) ∨
    ((w.toNat % 16 = 1 ∨ w.toNat % 16 = 2 ∨ w.toNat % 16 = 3) ∧ w.toNat / 0x1000000 = 0 ∧ w.toNat / 16 % 16 = 0) ∨
    (w.toNat % 16 = 6 ∧ w.toNat / 0x10000 = 0 ∧ w.toNat / 16 % 16 = 0) ∨
    (w.toNat % 16 = 7 ∧ w.toNat / 32 = 0)

/-- R95, R96, R101: the decoder accepts exactly the legal words and refuses the others by name. -/
def Obligations.DecoderRefusesByName : Prop :=
  ∀ w : Word,
    ((∃ i, decode w = .ok i) ↔ legal w = true) ∧
    (decode w = .error .reservedOpcode ↔ 10 ≤ w.toNat % 16) ∧
    (decode w = .error .mustBeZero ↔ w.toNat % 16 < 10 ∧ legal w = false)

/-- opcode_table.json: a decoded word matches its row, and a word that matches a row decodes to that row's command. -/
def Obligations.OpcodeTableRows : Prop :=
  (∀ (w : Word) (i : Instr), decode w = .ok i → w &&& i.tableMask = i.tableMatch) ∧
  (∀ (w : Word) (i : Instr), w &&& i.tableMask = i.tableMatch → ∃ j, decode w = .ok j ∧ j.opcode = i.opcode)

/-- R94, R105 and 95_test_vectors.md §2.7: words written out from the spec's encodings. -/
def Obligations.SpecWordsDecode : Prop :=
  decode 0x00000000#32 = .ok .nop ∧
  decode 0x00CA5301#32 = .ok (.clmul 0x53#8 0xCA#8) ∧
  decode 0x003F7E02#32 = .ok (.pmod 0x3F7E#16) ∧
  decode 0x00835703#32 = .ok (.gfmul 0x57#8 0x83#8) ∧
  decode 0x00000004#32 = .ok .invgen ∧
  decode 0x00000005#32 = .ok .irrscan ∧
  decode 0x00005306#32 = .ok (.affine 0x53#8) ∧
  decode 0x00000017#32 = .ok (.afftab true) ∧
  decode 0x00000008#32 = .ok .linan ∧
  decode 0x00000009#32 = .ok .sort ∧
  decode 0x0000000A#32 = .error .reservedOpcode ∧
  decode 0x00000018#32 = .error .mustBeZero

/-- R105: the assembler takes exactly the statements whose operands fit, and takes every command as written down. -/
def Obligations.AssemblerTakesFittingOperands : Prop :=
  (∀ a b : Nat, (∃ i, (Source.clmul a b).assemble = some i) ↔ a ≤ 255 ∧ b ≤ 255) ∧
  (∀ a b : Nat, (∃ i, (Source.gfmul a b).assemble = some i) ↔ a ≤ 255 ∧ b ≤ 255) ∧
  (∀ p : Nat, (∃ i, (Source.pmod p).assemble = some i) ↔ p ≤ 65535) ∧
  (∀ x : Nat, (∃ i, (Source.affine x).assemble = some i) ↔ x ≤ 255) ∧
  (∀ i : Instr, i.source.assemble = some i)

/-! ## Steps -/

/-- R104: when the completion is due, the step is `execute` of the decoded command with the end of the handshake; and
`withFetchWord` sets up exactly that (entry 1). -/
def Obligations.StepRunsLatchedCommand : Prop :=
  (∀ (s t : State) (i : Instr), s.CoreTurn i → exec i s = .next t →
    step s = .next { t with busy := false, done := true, wait := 0 }) ∧
  (∀ (s : State) (i : Instr), i.WellFormed →
    s.withFetchWord 32 (encode i).toNat = { s with lcmd := encode i, busy := true, done := false, wait := 0 } ∧
    (s.withFetchWord 32 (encode i).toNat).CoreTurn i)

/-- R72, R73: otherwise the step is the host's next event, or nothing while nobody moves (entries 2, 15). -/
def Obligations.StepRunsHostEvent : Prop :=
  (∀ (s : State) (e : HostEvent) (rest : List HostEvent), s.HostTurn e rest →
    step s = .next (hostEvent e { s with host := rest, wait := s.wait - 1 })) ∧
  (∀ s : State, s.busy = false → s.host = [] → step s = .next s)

/-- R104: a completion always succeeds, ends the handshake and raises no error, whatever the command. That LCMD keeps the
completed word is the model's choice (U14; entry 18). -/
def Obligations.CompletionEndsHandshake : Prop :=
  ∀ (s : State) (i : Instr), s.CoreTurn i → ∃ t, step s = .next t ∧ t.busy = false ∧ t.done = true ∧
    t.err = s.err ∧ t.ie = s.ie ∧ t.poly = s.poly ∧ t.lcmd = s.lcmd ∧ t.host = s.host ∧ t.rdata = s.rdata ∧
    t.resets = s.resets

/-- R104, R239: from a state of the invariant no step stops. -/
def Obligations.InvariantStepNeverStops : Prop :=
  ∀ s : State, s.Inv → s.StepSafe

/-- The invariant holds right after reset. -/
def Obligations.ResetHasInvariant : Prop := State.reset.Inv

/-- Every step keeps the invariant: canonical memories, the valid bits that record the written cells (R41, R46), the
ranges of UNRES and IRRCNT (R32, R33), legal latched commands (R102), DONE = 0 while BUSY = 1 (R22, R23). -/
def Obligations.StepKeepsInvariant : Prop :=
  ∀ s t : State, s.Inv → step s = .next t → t.Inv

/-! ## Field arithmetic -/

/-- R121: NOP has no effect. -/
def Obligations.NopHasNoEffect : Prop :=
  ∀ s : State, exec .nop s = .next s

/-- R120, R122: bit k of RESULT is the parity of the pairs (i, j) with i + j = k and both bits set; nothing else
changes. -/
def Obligations.ClmulProductBits : Prop :=
  ∀ (s : State) (a b : Byte), ∃ v : Product, exec (.clmul a b) s = .next { s with result := v } ∧
    ∀ k < 16, v.getLsbD k = decide
      ((((List.range 8).flatMap fun i => (List.range 8).map fun j => (i, j)).countP fun c =>
        decide (c.1 + c.2 = k) && (a.getLsbD c.1 && b.getLsbD c.2)) % 2 = 1)

/-- R122, corner cases. -/
def Obligations.ClmulCornerCases : Prop :=
  (∀ (s : State) (b : Byte), exec (.clmul 0x00#8 b) s = .next { s with result := 0#16 }) ∧
  (∀ (s : State) (b : Byte), exec (.clmul 0x01#8 b) s = .next { s with result := b.setWidth 16 }) ∧
  (∀ (s : State) (a b : Byte), exec (.clmul a b) s = exec (.clmul b a) s) ∧
  (∀ (s : State) (a b : Byte), ∃ t, exec (.clmul a b) s = .next t ∧ t.result.toNat ≤ 0x7FFF) ∧
  (∀ s : State, exec (.clmul 0xFF#8 0xFF#8) s = .next { s with result := 0x5555#16 }) ∧
  (∀ s : State, exec (.clmul 0x80#8 0x80#8) s = .next { s with result := 0x4000#16 })

/-- R123 to R125: PMOD gives the remainder of p modulo POLY: p = q * POLY + v over GF(2) for some quotient q, and only
one v of degree below 8 does that. POLY = x^8 + POLY[7:0], so q * POLY is q * x^8 + clmul(q, POLY[7:0]). -/
def Obligations.PmodRemainder : Prop :=
  ∀ (s : State) (p : Product),
    (∃ q v : Byte, p = (q.setWidth 16 <<< 8) ^^^ clmul q s.poly ^^^ v.setWidth 16) ∧
    (∀ q v : Byte, p = (q.setWidth 16 <<< 8) ^^^ clmul q s.poly ^^^ v.setWidth 16 →
      exec (.pmod p) s = .next { s with result := v.setWidth 16, eq1 := v == 0x01#8 })

/-- R124: reduce is GF(2)-linear in p, keeps p below 0x100, and gives 0 on r itself. -/
def Obligations.ReduceIsLinear : Prop :=
  ∀ (p q : Product) (low : Byte),
    reduce (p ^^^ q) (1#1 ++ low) = reduce p (1#1 ++ low) ^^^ reduce q (1#1 ++ low) ∧
    (p.toNat < 0x100 → (reduce p (1#1 ++ low)).setWidth 16 = p) ∧
    reduce ((1#1 ++ low : Poly).setWidth 16) (1#1 ++ low) = 0x00#8

/-- R127: GFMUL a, b is CLMUL a, b followed by PMOD of that RESULT, and is GFMUL b, a. -/
def Obligations.GfmulIsClmulThenPmod : Prop :=
  ∀ (s : State) (a b : Byte), ∃ t u, exec (.clmul a b) s = .next t ∧ exec (.pmod t.result) t = .next u ∧
    exec (.gfmul a b) s = .next u ∧ exec (.gfmul b a) s = .next u

/-- R126: GFMUL multiplies in the ring of polynomials modulo POLY: RESULT is the one v of degree below 8 with
a * b = q * POLY + v, EQ1 says whether it is 1, and nothing else changes. -/
def Obligations.GfmulRemainderOfProduct : Prop :=
  ∀ (s : State) (a b : Byte), ∃ v q : Byte,
    exec (.gfmul a b) s = .next { s with result := v.setWidth 16, eq1 := v == 0x01#8 } ∧
    clmul a b = (q.setWidth 16 <<< 8) ^^^ clmul q s.poly ^^^ v.setWidth 16

/-! ## Inverse finder and scanner -/

/-- R150 to R152: what INVGEN leaves in INV and UNRES, for every POLY. -/
def Obligations.InvgenInverseTable : Prop :=
  ∀ s : State, ∃ t, exec .invgen s = .next t ∧
    readByte t 0x100 = 0x00#8 ∧
    readByte t 0x101 = 0x01#8 ∧
    (∀ x : Byte, x ≠ 0x00#8 → readByte t (0x100 + x.toNat) ≠ 0x00#8 →
      reduce (clmul x (readByte t (0x100 + x.toNat))) (polyReg s) = 0x01#8 ∧
      readByte t (0x100 + (readByte t (0x100 + x.toNat)).toNat) = x) ∧
    (∀ x : Byte, 2 ≤ x.toNat → (readByte t (0x100 + x.toNat) = 0x00#8 ↔ ¬ Invertible (polyReg s) x)) ∧
    t.unres.toNat = (List.range' 2 254).countP (fun k => readByte t (0x100 + k) == 0x00#8) ∧
    t.unres.toNat ≤ 254

/-- R152: what INVGEN changes and nothing else: INV, INVVAL, UNRES (and the scratch MARK, a free value, entry 5). -/
def Obligations.InvgenFrame : Prop :=
  ∀ s : State, ∃ t, exec .invgen s = .next t ∧
    t.invval = BitVec.allOnes 256 ∧
    (Memory.wf s.mem → CellsKeptOutside s t 0x100 0x200) ∧
    t = { s with mem := t.mem, invval := t.invval, unres := t.unres, mark := t.mark, draws := s.draws + 1 }

/-- R151, R156: the inverse table is the only one with these properties, so no order of finding the pairs can be told
from another. -/
def Obligations.InverseTableIsUnique : Prop :=
  ∀ (s t : State) (T : List Byte), exec .invgen s = .next t → T.length = 256 →
    T[0]? = some 0x00#8 → T[1]? = some 0x01#8 →
    (∀ x : Byte, 2 ≤ x.toNat → ∃ y, T[x.toNat]? = some y ∧
      (y = 0x00#8 ∧ ¬ Invertible (polyReg s) x ∨ reduce (clmul x y) (polyReg s) = 0x01#8)) →
    ∀ x : Byte, T[x.toNat]? = some (readByte t (0x100 + x.toNat))

/-- R153: the count of unresolved bytes is 0 exactly when the polynomial is irreducible. -/
def Obligations.UnresZeroIffIrreducible : Prop :=
  (∀ low : Byte, (invfind (1#1 ++ low)).unres = 0 ↔ IrreduciblePoly (1#1 ++ low)) ∧
  (∀ s : State, ∃ t, exec .invgen s = .next t ∧ (t.unres = 0x00#8 ↔ IrreduciblePoly (polyReg s)))

/-- The list of R157. -/
def Sys2Proof.specIrrList : List Poly :=
  [0x11B, 0x11D, 0x12B, 0x12D, 0x139, 0x13F, 0x14D, 0x15F, 0x163, 0x165] ++
  [0x169, 0x171, 0x177, 0x17B, 0x187, 0x18B, 0x18D, 0x19F, 0x1A3, 0x1A9] ++
  [0x1B1, 0x1BD, 0x1C3, 0x1CF, 0x1D7, 0x1DD, 0x1E7, 0x1F3, 0x1F5, 0x1F9]

/-- R157: the result of IRRSCAN, from every state. -/
def Obligations.IrrscanResultList : Prop :=
  ∀ s : State, ∃ t, exec .irrscan s = .next t ∧ t.irrcnt.toNat = 30 ∧
    ∀ n < 30, specIrrList[n]? = some (readIrr t n)

/-- R154, R155: IRRSCAN lists, rising, exactly the odd polynomials of degree 8 under which every byte 2..255 finds an
inverse; entries from IRRCNT on and everything else stay (MARK is scratch, entry 5). -/
def Obligations.IrrscanListsFullInverses : Prop :=
  ∀ s : State, ∃ t, exec .irrscan s = .next t ∧
    (∀ r : Poly, (∃ n < t.irrcnt.toNat, readIrr t n = r) ↔
      (r.getLsbD 8 = true ∧ r.getLsbD 0 = true ∧ ∀ x : Byte, 2 ≤ x.toNat → Invertible r x)) ∧
    (∀ m n, m < n → n < t.irrcnt.toNat → (readIrr t m).toNat < (readIrr t n).toNat) ∧
    (Memory.wf s.irr → ∀ n, t.irrcnt.toNat ≤ n → readIrr t n = readIrr s n) ∧
    t = { s with irr := t.irr, irrcnt := t.irrcnt, mark := t.mark, draws := s.draws + 1 }

/-! ## Affine transform -/

/-- R170, R171: AFFINE puts aff(x) into RESULT, bit by bit as R170 gives it, and nothing else changes. -/
def Obligations.AffineResultBits : Prop :=
  ∀ (s : State) (x : Byte), ∃ v : Byte, exec (.affine x) s = .next { s with result := v.setWidth 16 } ∧
    ∀ i < 8, v.getLsbD i = (x.getLsbD i ^^ x.getLsbD ((i + 4) % 8) ^^ x.getLsbD ((i + 5) % 8) ^^
      x.getLsbD ((i + 6) % 8) ^^ x.getLsbD ((i + 7) % 8) ^^ (0x63#8).getLsbD i)

/-- R170, R171: aff is affine. -/
def Obligations.AffIsAffine : Prop :=
  ∀ x z : Byte, aff (x ^^^ z) = aff x ^^^ aff z ^^^ 0x63#8

/-- R172: AFFTAB fills SBOX from INV, transformed or raw, sets every SBVAL bit, and changes nothing else. -/
def Obligations.AfftabFillsSbox : Prop :=
  ∀ (s : State) (raw : Bool), ∃ t, exec (.afftab raw) s = .next t ∧
    (∀ k < 256, readByte t (0x200 + k) = if raw then readByte s (0x100 + k) else aff (readByte s (0x100 + k))) ∧
    (Memory.wf s.mem → CellsKeptOutside s t 0x200 0x300) ∧
    t = { s with mem := t.mem, sbval := BitVec.allOnes 256 }

/-- The S-box of 95_test_vectors.md §2.4, sixteen entries a row. -/
def Sys2Proof.specAesSbox : List Nat :=
  [0x63, 0x7C, 0x77, 0x7B, 0xF2, 0x6B, 0x6F, 0xC5, 0x30, 0x01, 0x67, 0x2B, 0xFE, 0xD7, 0xAB, 0x76] ++
  [0xCA, 0x82, 0xC9, 0x7D, 0xFA, 0x59, 0x47, 0xF0, 0xAD, 0xD4, 0xA2, 0xAF, 0x9C, 0xA4, 0x72, 0xC0] ++
  [0xB7, 0xFD, 0x93, 0x26, 0x36, 0x3F, 0xF7, 0xCC, 0x34, 0xA5, 0xE5, 0xF1, 0x71, 0xD8, 0x31, 0x15] ++
  [0x04, 0xC7, 0x23, 0xC3, 0x18, 0x96, 0x05, 0x9A, 0x07, 0x12, 0x80, 0xE2, 0xEB, 0x27, 0xB2, 0x75] ++
  [0x09, 0x83, 0x2C, 0x1A, 0x1B, 0x6E, 0x5A, 0xA0, 0x52, 0x3B, 0xD6, 0xB3, 0x29, 0xE3, 0x2F, 0x84] ++
  [0x53, 0xD1, 0x00, 0xED, 0x20, 0xFC, 0xB1, 0x5B, 0x6A, 0xCB, 0xBE, 0x39, 0x4A, 0x4C, 0x58, 0xCF] ++
  [0xD0, 0xEF, 0xAA, 0xFB, 0x43, 0x4D, 0x33, 0x85, 0x45, 0xF9, 0x02, 0x7F, 0x50, 0x3C, 0x9F, 0xA8] ++
  [0x51, 0xA3, 0x40, 0x8F, 0x92, 0x9D, 0x38, 0xF5, 0xBC, 0xB6, 0xDA, 0x21, 0x10, 0xFF, 0xF3, 0xD2] ++
  [0xCD, 0x0C, 0x13, 0xEC, 0x5F, 0x97, 0x44, 0x17, 0xC4, 0xA7, 0x7E, 0x3D, 0x64, 0x5D, 0x19, 0x73] ++
  [0x60, 0x81, 0x4F, 0xDC, 0x22, 0x2A, 0x90, 0x88, 0x46, 0xEE, 0xB8, 0x14, 0xDE, 0x5E, 0x0B, 0xDB] ++
  [0xE0, 0x32, 0x3A, 0x0A, 0x49, 0x06, 0x24, 0x5C, 0xC2, 0xD3, 0xAC, 0x62, 0x91, 0x95, 0xE4, 0x79] ++
  [0xE7, 0xC8, 0x37, 0x6D, 0x8D, 0xD5, 0x4E, 0xA9, 0x6C, 0x56, 0xF4, 0xEA, 0x65, 0x7A, 0xAE, 0x08] ++
  [0xBA, 0x78, 0x25, 0x2E, 0x1C, 0xA6, 0xB4, 0xC6, 0xE8, 0xDD, 0x74, 0x1F, 0x4B, 0xBD, 0x8B, 0x8A] ++
  [0x70, 0x3E, 0xB5, 0x66, 0x48, 0x03, 0xF6, 0x0E, 0x61, 0x35, 0x57, 0xB9, 0x86, 0xC1, 0x1D, 0x9E] ++
  [0xE1, 0xF8, 0x98, 0x11, 0x69, 0xD9, 0x8E, 0x94, 0x9B, 0x1E, 0x87, 0xE9, 0xCE, 0x55, 0x28, 0xDF] ++
  [0x8C, 0xA1, 0x89, 0x0D, 0xBF, 0xE6, 0x42, 0x68, 0x41, 0x99, 0x2D, 0x0F, 0xB0, 0x54, 0xBB, 0x16]

/-- R173: with POLY = 0x11B, INVGEN followed by AFFTAB gives the S-box of 95_test_vectors.md §2.4; in particular
SBOX[0x00] = 0x63, SBOX[0x01] = 0x7C and SBOX[0xFF] = 0x16. -/
def Obligations.AesSboxFromInvgenAfftab : Prop :=
  ∀ s : State, polyReg s = 0x11B#9 → ∃ t u, exec .invgen s = .next t ∧ exec (.afftab false) t = .next u ∧
    readByte u 0x200 = 0x63#8 ∧ readByte u 0x201 = 0x7C#8 ∧ readByte u 0x2FF = 0x16#8 ∧
    ∀ k < 256, specAesSbox[k]? = some (readByte u (0x200 + k)).toNat

/-! ## Linear analyzer and sorter -/

/-- R180 to R182: every cell LINAN writes, counted from the S-box as R180 says; row 0 and everything else stay. -/
def Obligations.LinanDeviations : Prop :=
  ∀ s : State, ∃ t, exec .linan s = .next t ∧
    (∀ i j, 1 ≤ i → i < 256 → j < 256 →
      let chosen := (List.range 256).filter fun k => decide (j = 0) || parity (BitVec.ofNat 8 j &&& BitVec.ofNat 8 k)
      let eq := chosen.countP fun k => parity (readByte s (0x200 + k) &&& BitVec.ofNat 8 i)
      let ne := chosen.countP fun k => !parity (readByte s (0x200 + k) &&& BitVec.ofNat 8 i)
      (devCell t i j).toNat = 128 * (chosen.length - 2 * min eq ne) / chosen.length) ∧
    (Memory.wf s.mem → CellsKeptOutside s t 0x10100 0x20000) ∧
    t = { s with mem := t.mem }

/-- R183, its five properties, of the tallies and of the cells LINAN writes. -/
def Obligations.LinanDeviationProperties : Prop :=
  ∀ s : State, ∃ t, exec .linan s = .next t ∧
    (∀ i j : Byte, (tally (sboxTable s) i j).sum = if j = 0x00#8 then 256 else 128) ∧
    (∀ i j, 1 ≤ i → i < 256 → 1 ≤ j → j < 256 → (devCell t i j).toNat % 2 = 0) ∧
    ((∀ k l, k < 256 → l < 256 → readByte s (0x200 + k) = readByte s (0x200 + l) → k = l) →
      (∀ i, 1 ≤ i → i < 256 → devCell t i 0 = 0x00#8) ∧
      (∀ i j, 1 ≤ i → i < 256 → 1 ≤ j → j < 256 →
        ((devCell t i j).toNat : Int) = |(((List.range 256).countP fun k =>
          parity (BitVec.ofNat 8 j &&& BitVec.ofNat 8 k) ==
            parity (BitVec.ofNat 8 i &&& readByte s (0x200 + k)) : Nat) : Int) - 128|)) ∧
    ((∀ k < 256, readByte s (0x200 + k) = BitVec.ofNat 8 k &&& 0xFE#8) →
      (devCell t 1 1).toNat = 128 ∧
      ((List.range 256).countP fun k =>
        parity (0x01#8 &&& BitVec.ofNat 8 k) == parity (0x01#8 &&& readByte s (0x200 + k))) = 128)

/-- R182, corner cases, and 90_conflicts.md C3: the identity S-box and a constant one. -/
def Obligations.LinanIdentityAndConstant : Prop :=
  ∀ s : State, ∃ t, exec .linan s = .next t ∧
    ((∀ k < 256, readByte s (0x200 + k) = BitVec.ofNat 8 k) → ∀ i j, 1 ≤ i → i < 256 → j < 256 →
      (devCell t i j).toNat = if j = i then 128 else 0) ∧
    (∀ c : Byte, (∀ k < 256, readByte s (0x200 + k) = c) → ∀ i j, 1 ≤ i → i < 256 → j < 256 →
      (devCell t i j).toNat = 128)

/-- R184 to R186: SORT leaves each of rows 1..255 in non-decreasing order with the same values, and in GMAX the largest
value these rows held before; row 0 and everything else stay. -/
def Obligations.SortOrdersRows : Prop :=
  ∀ s : State, ∃ t, exec .sort s = .next t ∧
    (∀ i, 1 ≤ i → i < 256 →
      (∀ j < 255, (devCell t i j).toNat ≤ (devCell t i (j + 1)).toNat) ∧
      ((List.range 256).map (devCell t i)).Perm ((List.range 256).map (devCell s i))) ∧
    (∀ i j, 1 ≤ i → i < 256 → j < 256 → (devCell s i j).toNat ≤ t.gmax.toNat) ∧
    (∃ i j, 1 ≤ i ∧ i < 256 ∧ j < 256 ∧ devCell s i j = t.gmax) ∧
    (∃ i, 1 ≤ i ∧ i < 256 ∧ devCell t i 255 = t.gmax) ∧
    (Memory.wf s.mem → CellsKeptOutside s t 0x10100 0x20000) ∧
    t = { s with mem := t.mem, gmax := t.gmax }

/-- R184, R185: any non-decreasing arrangement of a row is the one SORT stores, so the sorting method cannot be told; and
SORT twice is SORT once. -/
def Obligations.SortIsUniqueAndIdempotent : Prop :=
  (∀ (s t : State) (i : Nat) (v : List Byte), exec .sort s = .next t → 1 ≤ i → i < 256 →
    v.Pairwise (fun x y => x.toNat ≤ y.toNat) → v.Perm ((List.range 256).map (devCell s i)) →
    (List.range 256).map (devCell t i) = v) ∧
  (∀ s t : State, exec .sort s = .next t → exec .sort t = .next t)

/-! ## Whole-machine rules -/

/-- R24, R31 to R34, R39: no step but the completion of a register's own commands, or reset, changes a result register;
and POLY changes only by a host write to it while idle, or by reset (R30, R71). -/
def Obligations.ResultsHaveTheirWriters : Prop :=
  ∀ s t : State, step s = .next t → (∀ rest, ¬ s.HostTurn .reset rest) →
    ((∀ i, s.CoreTurn i → i.opcode ≠ 0x1#4 ∧ i.opcode ≠ 0x2#4 ∧ i.opcode ≠ 0x3#4 ∧ i.opcode ≠ 0x6#4) →
      t.result = s.result) ∧
    ((∀ i, s.CoreTurn i → i.opcode ≠ 0x2#4 ∧ i.opcode ≠ 0x3#4) → t.eq1 = s.eq1) ∧
    ((∀ i, s.CoreTurn i → i.opcode ≠ 0x4#4) → t.unres = s.unres) ∧
    ((∀ i, s.CoreTurn i → i.opcode ≠ 0x5#4) → t.irrcnt = s.irrcnt ∧ t.irr = s.irr) ∧
    ((∀ i, s.CoreTurn i → i.opcode ≠ 0x9#4) → t.gmax = s.gmax) ∧
    ((∀ w rest, s.busy = false → ¬ s.HostTurn (.write 0x00010#17 w) rest) → t.poly = s.poly)

/-- R22, R71, R103: while a command executes, no event of the host but reset changes its inputs, the results, the arrays
or the handshake. Only ERR, IE, DONE (by W1C), and what the host itself sees and does, may change. -/
def Obligations.ExecutingCommandIsAlone : Prop :=
  ∀ (s : State) (e : HostEvent) (rest : List HostEvent), s.busy = true → s.HostTurn e rest → e ≠ .reset →
    ∃ t, step s = .next t ∧
      t = { s with
        err := t.err, ie := t.ie, done := t.done, host := t.host, rdata := t.rdata, wait := s.wait - 1, draws := t.draws }

/-- R28, R230: an ERR bit is cleared only by a host write to ERR with a 1 there, or by reset. -/
def Obligations.ErrorBitsAreSticky : Prop :=
  ∀ (s t : State) (n : Nat), step s = .next t → s.err.getLsbD n = true → t.err.getLsbD n = false →
    (∃ w rest, s.HostTurn (.write 0x00008#17 w) rest ∧ w.getLsbD n = true) ∨ ∃ rest, s.HostTurn .reset rest

/-- R230, R236, R239: a step that sets a new ERR bit is a host access, sets that one bit alone, and has no other effect
(a read returns 0). -/
def Obligations.ErrorsAreSingleAndPrecise : Prop :=
  ∀ (s t : State) (n : Nat), step s = .next t → s.err.getLsbD n = false → t.err.getLsbD n = true →
    ∃ e rest, s.HostTurn e rest ∧
      ((∃ a, e = .read a ∧
          t = { s with err := s.err ||| (1#4 <<< n), rdata := 0#32, host := rest, wait := s.wait - 1 }) ∨
        (∃ a w, e = .write a w ∧ t = { s with err := s.err ||| (1#4 <<< n), host := rest, wait := s.wait - 1 }))

/-- R41: no valid bit is cleared except by reset. -/
def Obligations.ValidBitsOnlyResetClears : Prop :=
  ∀ (s t : State) (k : Nat), step s = .next t → (∀ rest, ¬ s.HostTurn .reset rest) →
    (s.invval.getLsbD k = true → t.invval.getLsbD k = true) ∧ (s.sbval.getLsbD k = true → t.sbval.getLsbD k = true)

/-- R267, R104: an accepted command completes. BUSY is 0 after at most `wait + 1` steps, be it by a reset that abandons the
command (R261); and when no reset stands among the host events that go first (a poll at the head keeps the events behind
it from coming), the CORE's turn for the command in LCMD comes within `wait` steps, with every input as at the start, and
the step there is its completion. The bound `wait` is the model's: the free latency draw, counted in host events
(entry 2); the poll is entry 14. -/
def Obligations.AcceptedCommandCompletes : Prop :=
  ∀ s : State, s.busy = true → legal s.lcmd = true →
    (∃ n ≤ s.wait + 1, ∃ t, StepsTo n s t ∧ t.busy = false) ∧
    (.reset ∉ (s.host.take s.wait).takeWhile (· ≠ .poll) →
      ∃ n ≤ s.wait, ∃ i u v, decode s.lcmd = .ok i ∧ StepsTo n s u ∧ u.CoreTurn i ∧
        u = { s with
          err := u.err, ie := u.ie, done := u.done, host := u.host, rdata := u.rdata, wait := u.wait, draws := u.draws } ∧
        exec i u = .next v ∧ step u = .next { v with busy := false, done := true, wait := 0 })

/-- R106, R267: a poll ends, with a STATUS word that says BUSY = 0, and no event behind it has been touched. -/
def Obligations.PollEndsIdle : Prop :=
  ∀ (s : State) (rest : List HostEvent), s.host = .poll :: rest → (s.busy = true → legal s.lcmd = true) →
    ∃ n t, n ≤ s.wait + 2 ∧ StepsTo n s t ∧ t.host = rest ∧ t.busy = false ∧ t.rdata.getLsbD 0 = false

/-! ## The host port -/

/-- R22 to R27: the bits of STATUS as a read gives them, busy or idle; the read changes nothing else. -/
def Obligations.StatusBits : Prop :=
  ∀ (s : State) (rest : List HostEvent), s.HostTurn (.read 0x00004#17) rest →
    ∃ t, step s = .next t ∧ t = { s with rdata := t.rdata, host := rest, wait := s.wait - 1 } ∧
      t.rdata.getLsbD 0 = s.busy ∧
      t.rdata.getLsbD 1 = s.done ∧
      t.rdata.getLsbD 2 = s.eq1 ∧
      t.rdata.getLsbD 3 = decide (s.unres.toNat ≠ 0) ∧
      t.rdata.getLsbD 4 = decide (s.err.toNat ≠ 0) ∧
      t.rdata.getLsbD 5 = (s.ie.getLsbD 0 && s.done || s.ie.getLsbD 1 && decide (s.err.toNat ≠ 0)) ∧
      ∀ n, 6 ≤ n → t.rdata.getLsbD n = false

/-- R20, R21, R28 to R35: what a read of each other register gives while the core is idle. -/
def Obligations.RegisterReads : Prop :=
  ∀ (s : State) (a : Addr) (rest : List HostEvent), s.busy = false → s.HostTurn (.read a) rest →
    a.toNat % 4 = 0 → a.toNat < 0x028 →
    ∃ t, step s = .next t ∧ t = { s with rdata := t.rdata, host := rest, wait := s.wait - 1 } ∧
      (a = 0x00000#17 → t.rdata.toNat = 0) ∧
      (a = 0x00008#17 → t.rdata.toNat = s.err.toNat) ∧
      (a = 0x0000C#17 → t.rdata.toNat = s.ie.toNat) ∧
      (a = 0x00010#17 → t.rdata.toNat = 0x100 + s.poly.toNat) ∧
      (a = 0x00014#17 → t.rdata.toNat = s.result.toNat) ∧
      (a = 0x00018#17 → t.rdata.toNat = s.unres.toNat) ∧
      (a = 0x0001C#17 → t.rdata.toNat = s.irrcnt.toNat) ∧
      (a = 0x00020#17 → t.rdata.toNat = s.gmax.toNat) ∧
      (a = 0x00024#17 → t.rdata.toNat =
        (if (List.range 256).all (fun k => s.invval.getLsbD k) then 1 else 0) +
          (if (List.range 256).all (fun k => s.sbval.getLsbD k) then 2 else 0))

/-- R39, R66, R69: what a read of an array word gives while the core is idle. -/
def Obligations.ArrayReads : Prop :=
  ∀ (s : State) (a : Addr) (rest : List HostEvent), s.busy = false → s.HostTurn (.read a) rest →
    (PackedWord a → ∃ t, step s = .next t ∧ t = { s with rdata := t.rdata, host := rest, wait := s.wait - 1 } ∧
      ∀ b < 4, t.rdata.extractLsb' (8 * b) 8 = readByte s (a.toNat + b)) ∧
    (∀ n < 128, a.toNat = 0x400 + 4 * n → step s =
      .next { s with rdata := (readIrr s n).setWidth 32, host := rest, wait := s.wait - 1 })

/-- R62: a misaligned access, whatever BUSY says. (`wait` counts the host events before a completion, entry 2; nothing is
said of it here.) -/
def Obligations.MisalignedAccess : Prop :=
  ∀ (s : State) (a : Addr) (w : Word) (rest : List HostEvent), a.toNat % 4 ≠ 0 →
    (s.HostTurn (.read a) rest → ∃ n, step s =
      .next { s with rdata := 0#32, err := s.err ||| 0x4#4, host := rest, wait := n }) ∧
    (s.HostTurn (.write a w) rest → ∃ n, step s =
      .next { s with err := s.err ||| 0x4#4, host := rest, wait := n })

/-- R65: an aligned access to an unmapped address, whatever BUSY says. -/
def Obligations.UnmappedAccess : Prop :=
  ∀ (s : State) (a : Addr) (w : Word) (rest : List HostEvent), a.toNat % 4 = 0 →
    (0x00028 ≤ a.toNat ∧ a.toNat ≤ 0x000FC ∨ 0x00300 ≤ a.toNat ∧ a.toNat ≤ 0x003FF ∨
      0x00600 ≤ a.toNat ∧ a.toNat ≤ 0x0FFFF) →
    (s.HostTurn (.read a) rest → ∃ n, step s =
      .next { s with rdata := 0#32, err := s.err ||| 0x4#4, host := rest, wait := n }) ∧
    (s.HostTurn (.write a w) rest → ∃ n, step s =
      .next { s with err := s.err ||| 0x4#4, host := rest, wait := n })

/-- R23, R28 to R30, R36: a write to each register but CMD; STATUS, ERR and IE also while BUSY = 1. -/
def Obligations.RegisterWrites : Prop :=
  ∀ (s : State) (a : Addr) (w : Word) (rest : List HostEvent), s.HostTurn (.write a w) rest →
    (a = 0x00004#17 → step s =
      .next { s with done := s.done && !w.getLsbD 1, host := rest, wait := s.wait - 1 }) ∧
    (a = 0x00008#17 → ∃ t, step s = .next t ∧ t = { s with err := t.err, host := rest, wait := s.wait - 1 } ∧
      ∀ n < 4, t.err.getLsbD n = (s.err.getLsbD n && !w.getLsbD n)) ∧
    (a = 0x0000C#17 → step s =
      .next { s with ie := w.extractLsb' 0 2, host := rest, wait := s.wait - 1 }) ∧
    (a = 0x00010#17 → s.busy = false → step s =
      .next { s with poly := w.extractLsb' 0 8, host := rest, wait := s.wait - 1 }) ∧
    (a.toNat % 4 = 0 → (0x00014 ≤ a.toNat ∧ a.toNat ≤ 0x00024 ∨ 0x00400 ≤ a.toNat ∧ a.toNat ≤ 0x005FF) →
      step s = .next { s with host := rest, wait := s.wait - 1 })

/-- R30: after a host write of w while idle, POLY reads 0x100 | w[7:0]. -/
def Obligations.PolyBitEightIsHardwired : Prop :=
  ∀ (s : State) (w : Word) (rest : List HostEvent), s.busy = false →
    s.host = .write 0x00010#17 w :: .read 0x00010#17 :: rest →
    ∃ t, StepsTo 2 s t ∧ t.rdata.toNat = 0x100 + w.toNat % 0x100 ∧ t.err = s.err

/-- R41, R66, R68: a write to a word of INV, SBOX or DEV while the core is idle: four lanes, four valid bits, and nothing
else. -/
def Obligations.ArrayWrites : Prop :=
  ∀ (s : State) (a : Addr) (w : Word) (rest : List HostEvent), s.busy = false → PackedWord a →
    s.HostTurn (.write a w) rest →
    ∃ t, step s = .next t ∧
      (∀ b < 4, readByte t (a.toNat + b) = w.extractLsb' (8 * b) 8) ∧
      (Memory.wf s.mem → CellsKeptOutside s t a.toNat (a.toNat + 4)) ∧
      (∀ k < 256, t.invval.getLsbD k =
        (s.invval.getLsbD k || decide (a.toNat ≤ 0x100 + k ∧ 0x100 + k < a.toNat + 4))) ∧
      (∀ k < 256, t.sbval.getLsbD k =
        (s.sbval.getLsbD k || decide (a.toNat ≤ 0x200 + k ∧ 0x200 + k < a.toNat + 4))) ∧
      t = { s with mem := t.mem, invval := t.invval, sbval := t.sbval, host := rest, wait := s.wait - 1 }

/-- R70: a written word of INV, SBOX or DEV reads back, while the core is idle. -/
def Obligations.ArrayRoundTrip : Prop :=
  ∀ (s : State) (a : Addr) (w : Word) (rest : List HostEvent), s.busy = false → PackedWord a →
    s.host = .write a w :: .read a :: rest →
    ∃ t, StepsTo 2 s t ∧ t.rdata = w ∧ t.host = rest ∧ t.err = s.err

/-- R69: reading a mapped word again, while the core is idle, gives the same word and changes no state. For a cell of INV,
SBOX, IRR or DEV that nothing has written since reset, that both reads give the same value is the model's (U6; entry 3,
DEDUCED and unsafe there), not the spec's plain words. -/
def Obligations.ReadsAreIdempotent : Prop :=
  ∀ (s : State) (a : Addr) (rest : List HostEvent), s.busy = false → badAddress (locate a) = false →
    s.host = .read a :: .read a :: rest →
    ∃ t u, StepsTo 1 s t ∧ StepsTo 1 t u ∧ u.rdata = t.rdata ∧
      u = { s with rdata := u.rdata, host := rest, wait := u.wait }

/-- R71, R232: a write to CMD, POLY, INV, SBOX or DEV while BUSY = 1 is dropped and raises BUSYWR. -/
def Obligations.BusyWritesAreDropped : Prop :=
  ∀ (s : State) (a : Addr) (w : Word) (rest : List HostEvent), s.busy = true → s.HostTurn (.write a w) rest →
    (a = 0x00000#17 ∨ a = 0x00010#17 ∨ PackedWord a) →
    step s = .next { s with err := s.err ||| 0x2#4, host := rest, wait := s.wait - 1 }

/-- R71: reads while BUSY = 1. STATUS, ERR, IE and POLY give their values; a read of a result or an array gives a word
of which nothing is said (entry 4); none of these changes the core. A misaligned or unmapped read (R62, R65) gives 0 and
sets ERR.ADDR alone. That CMD reads 0 while BUSY = 1 is the model's reading of R21, where R71 is silent (entry 12,
DEDUCED). -/
def Obligations.BusyReads : Prop :=
  ∀ (s : State) (a : Addr) (rest : List HostEvent), s.busy = true → s.HostTurn (.read a) rest →
    (a = 0x00000#17 → step s = .next { s with rdata := 0#32, host := rest, wait := s.wait - 1 }) ∧
    (a = 0x00004#17 → step s = .next { s with rdata := statusWord s, host := rest, wait := s.wait - 1 }) ∧
    (a = 0x00008#17 → step s = .next { s with rdata := s.err.setWidth 32, host := rest, wait := s.wait - 1 }) ∧
    (a = 0x0000C#17 → step s = .next { s with rdata := s.ie.setWidth 32, host := rest, wait := s.wait - 1 }) ∧
    (a = 0x00010#17 → step s =
      .next { s with rdata := 0x100#32 ||| s.poly.setWidth 32, host := rest, wait := s.wait - 1 }) ∧
    ((a.toNat % 4 = 0 ∧ (0x00014 ≤ a.toNat ∧ a.toNat ≤ 0x00024 ∨ 0x00400 ≤ a.toNat ∧ a.toNat ≤ 0x005FF)) ∨
        PackedWord a →
      ∃ v, step s = .next { s with rdata := v, draws := s.draws + 1, host := rest, wait := s.wait - 1 }) ∧
    (a.toNat % 4 ≠ 0 ∨ 0x00028 ≤ a.toNat ∧ a.toNat ≤ 0x000FF ∨ 0x00300 ≤ a.toNat ∧ a.toNat ≤ 0x003FF ∨
        0x00600 ≤ a.toNat ∧ a.toNat ≤ 0x0FFFF →
      step s = .next { s with rdata := 0#32, err := s.err ||| 0x4#4, host := rest, wait := s.wait - 1 })

/-- R102: a command issue, branch by branch. (`wait` and `draws` are the model's own, entries 2 and 17; nothing is said
of them here.) -/
def Obligations.CommandIssue : Prop :=
  ∀ (s : State) (w : Word) (rest : List HostEvent), s.HostTurn (.write 0x00000#17 w) rest →
    (s.busy = true → ∃ n, step s = .next { s with err := s.err ||| 0x2#4, host := rest, wait := n }) ∧
    (s.busy = false → legal w = false →
      ∃ n, step s = .next { s with err := s.err ||| 0x1#4, host := rest, wait := n }) ∧
    (s.busy = false → legal w = true → w.toNat % 16 = 7 → s.invval ≠ BitVec.allOnes 256 →
      ∃ n, step s = .next { s with err := s.err ||| 0x8#4, host := rest, wait := n }) ∧
    (s.busy = false → legal w = true → w.toNat % 16 = 8 → s.sbval ≠ BitVec.allOnes 256 →
      ∃ n, step s = .next { s with err := s.err ||| 0x8#4, host := rest, wait := n }) ∧
    (s.busy = false → legal w = true → (w.toNat % 16 = 7 → s.invval = BitVec.allOnes 256) →
      (w.toNat % 16 = 8 → s.sbval = BitVec.allOnes 256) →
      ∃ n d, step s = .next { s with lcmd := w, done := false, busy := true, host := rest, wait := n, draws := d })

/-- R44: the level of irq, which is 0 right after reset. -/
def Obligations.IrqLevel : Prop :=
  (∀ s : State, irq s = true ↔
    (s.ie.getLsbD 0 = true ∧ s.done = true) ∨ (s.ie.getLsbD 1 = true ∧ s.err ≠ 0#4)) ∧
  irq State.reset = false

/-- R260: the values of the registers right after reset, as fields and as the host reads them. (MARK and LCMD have none
in the spec; entry 6.) -/
def Obligations.ResetRegisterValues : Prop :=
  State.reset.busy = false ∧ State.reset.done = false ∧ State.reset.eq1 = false ∧ State.reset.err = 0#4 ∧
  State.reset.ie = 0#2 ∧ polyReg State.reset = 0x11B#9 ∧ State.reset.result = 0#16 ∧ State.reset.unres = 0#8 ∧
  State.reset.irrcnt = 0#8 ∧ State.reset.gmax = 0#8 ∧ State.reset.invval = 0#256 ∧ State.reset.sbval = 0#256 ∧
  statusWord State.reset = 0#32 ∧ validWord State.reset = 0#32 ∧
  (∀ a, Memory.get? State.reset.mem a = none) ∧ (∀ n, Memory.get? State.reset.irr n = none)

/-- R260, R261: the reset input, asserted at any time, busy or idle: the registers take their reset values, the executing
command is gone, and every array cell is unspecified anew. -/
def Obligations.ResetInput : Prop :=
  ∀ (s : State) (rest : List HostEvent), s.HostTurn .reset rest →
    ∃ t, step s = .next t ∧ t.busy = false ∧ t.done = false ∧ t.eq1 = false ∧ t.err = 0#4 ∧ t.ie = 0#2 ∧
      polyReg t = 0x11B#9 ∧ t.result = 0#16 ∧ t.unres = 0#8 ∧ t.irrcnt = 0#8 ∧ t.gmax = 0#8 ∧
      t.invval = 0#256 ∧ t.sbval = 0#256 ∧ irq t = false ∧ statusWord t = 0#32 ∧ t.host = rest ∧
      (∀ a, readByte t a = Config.unwrittenByte (s.resets + 1) a) ∧
      (∀ n, readIrr t n = Config.unwrittenIrr (s.resets + 1) n)
end

