-- ==== Sys2Proof/Laws/Memory.lean ====
section
/-! SUPPORT. The laws of sparse memories: what a read gives after a write, and that a write keeps the canonical form. -/

namespace Sys2Proof.Machine.Memory

variable {α : Type}

@[simp] theorem get?_nil (a : Nat) : get? ([] : List (Nat × α)) a = none := rfl

theorem get?_cons (c : Nat × α) (m : List (Nat × α)) (a : Nat) :
    get? (c :: m) a = if c.1 < a then get? m a else if c.1 = a then some c.2 else none := rfl

/-- Entries below the key are passed over. -/
theorem get?_append_of_lt {l m : List (Nat × α)} {a : Nat} (h : ∀ c ∈ l, c.1 < a) :
    get? (l ++ m) a = get? m a := by
  induction l with
  | nil => rfl
  | cons c l ih =>
    rw [List.cons_append, get?_cons, if_pos (h c (by simp)), ih fun d hd => h d (by simp [hd])]

/-- A list whose keys all lie above the key does not hold it. -/
theorem get?_of_gt {m : List (Nat × α)} {a : Nat} (h : ∀ c ∈ m, a < c.1) : get? m a = none := by
  cases m with
  | nil => rfl
  | cons c m =>
    have hc := h c (by simp)
    rw [get?_cons, if_neg (by omega), if_neg (by omega)]

/-- A stored value is an entry of the list. -/
theorem mem_of_get? {m : List (Nat × α)} {a : Nat} {v : α} (h : get? m a = some v) : (a, v) ∈ m := by
  induction m with
  | nil => simp at h
  | cons c m ih =>
    rw [get?_cons] at h
    split at h
    · exact List.mem_cons_of_mem _ (ih h)
    · split at h
      · next hc => cases h; subst hc; exact List.mem_cons_self
      · cases h

/-- In the canonical form, an entry of the list is the stored value. -/
theorem get?_of_mem {m : List (Nat × α)} (hm : wf m) {a : Nat} {v : α} (h : (a, v) ∈ m) :
    get? m a = some v := by
  induction m with
  | nil => cases h
  | cons c m ih =>
    simp only [wf, List.map_cons, List.pairwise_cons] at hm
    rw [get?_cons]
    rcases List.mem_cons.1 h with rfl | h
    · simp
    · rw [if_pos (hm.1 a (List.mem_map.2 ⟨_, h, rfl⟩)), ih hm.2 h]

theorem get?_dropWhile {m : List (Nat × α)} {a b : Nat} (hab : a ≤ b) :
    get? (m.dropWhile fun c => decide (c.1 < a)) b = get? m b := by
  induction m with
  | nil => rfl
  | cons c m ih =>
    by_cases hc : c.1 < a
    · rw [List.dropWhile_cons_of_pos (by simpa using hc), ih, get?_cons, if_pos (by omega)]
    · rw [List.dropWhile_cons_of_neg (by simpa using hc)]

/-- `readRange` reads each key as `get?` does. -/
theorem readRange_eq_map (dflt : Nat → α) (m : List (Nat × α)) (a n : Nat) :
    readRange dflt m a n = (List.range n).map fun i => (get? m (a + i)).getD (dflt (a + i)) := by
  induction n generalizing m a with
  | zero => rfl
  | succ n ih =>
    rw [readRange, ih, List.range_succ_eq_map, List.map_cons, List.map_map, get?_dropWhile le_rfl]
    congr 1
    apply List.map_congr_left
    intro i _
    simp only [Function.comp, Nat.succ_eq_add_one]
    rw [get?_dropWhile (by omega), Nat.add_assoc, Nat.add_comm 1 i]

@[simp] theorem length_readRange (dflt : Nat → α) (m : List (Nat × α)) (a n : Nat) :
    (readRange dflt m a n).length = n := by simp [readRange_eq_map]

/-! ## Writes -/

/-- The middle part of a written list. -/
theorem mem_zipIdx_map {vs : List α} {a : Nat} {c : Nat × α} :
    c ∈ vs.zipIdx.map (fun d => (a + d.2, d.1)) ↔ ∃ i, ∃ h : i < vs.length, c = (a + i, vs[i]) := by
  simp only [List.mem_map, List.mem_zipIdx_iff_getElem?, Prod.exists]
  constructor
  · rintro ⟨v, i, hi, rfl⟩
    obtain ⟨h, rfl⟩ := List.getElem?_eq_some_iff.1 hi
    exact ⟨i, h, rfl⟩
  · rintro ⟨i, h, rfl⟩
    exact ⟨vs[i], i, by simp [h], rfl⟩

/-- The entries of a written list: the old ones outside the range and the new ones in it. -/
theorem mem_writeRange {m : List (Nat × α)} {a : Nat} {vs : List α} {c : Nat × α} :
    c ∈ writeRange m a vs ↔
      (c ∈ m ∧ (c.1 < a ∨ a + vs.length ≤ c.1)) ∨ ∃ i, ∃ h : i < vs.length, c = (a + i, vs[i]) := by
  simp only [writeRange, List.mem_append, List.mem_filter, decide_eq_true_eq, mem_zipIdx_map]
  rw [or_right_comm, ← and_or_left]

/-- A write keeps the canonical form. -/
theorem wf_writeRange {m : List (Nat × α)} (hm : wf m) (a : Nat) (vs : List α) : wf (writeRange m a vs) := by
  have sub : ∀ p : Nat × α → Bool, ((m.filter p).map Prod.fst).Pairwise (· < ·) := fun p =>
    hm.sublist (List.filter_sublist.map _)
  have mid : ∀ k, (((vs.zipIdx k).map fun d => (a + d.2, d.1)).map Prod.fst).Pairwise (· < ·) := by
    intro k
    rw [List.map_map]
    have : (Prod.fst ∘ fun d : α × Nat => (a + d.2, d.1)) = fun d => a + d.2 := rfl
    rw [this]
    induction vs generalizing k with
    | nil => simp
    | cons v vs ih =>
      rw [List.zipIdx_cons, List.map_cons, List.pairwise_cons]
      refine ⟨fun x hx => ?_, ih _⟩
      obtain ⟨d, hd, rfl⟩ := List.mem_map.1 hx
      have := (List.mem_zipIdx hd).1
      simp only; omega
  rw [wf, writeRange, List.map_append, List.map_append, List.pairwise_append, List.pairwise_append]
  refine ⟨⟨sub _, mid 0, ?_⟩, sub _, ?_⟩
  · intro x hx y hy
    obtain ⟨c, hc, rfl⟩ := List.mem_map.1 hx
    obtain ⟨d, hd, rfl⟩ := List.mem_map.1 hy
    obtain ⟨i, hi, rfl⟩ := mem_zipIdx_map.1 hd
    have := (List.mem_filter.1 hc).2
    simp only [decide_eq_true_eq] at this ⊢
    omega
  · intro x hx y hy
    obtain ⟨d, hd, rfl⟩ := List.mem_map.1 hy
    have hy := (List.mem_filter.1 hd).2
    rw [List.mem_append] at hx
    simp only [decide_eq_true_eq] at hy
    rcases hx with hx | hx <;> obtain ⟨c, hc, rfl⟩ := List.mem_map.1 hx
    · have := (List.mem_filter.1 hc).2
      simp only [decide_eq_true_eq] at this
      omega
    · obtain ⟨i, hi, rfl⟩ := mem_zipIdx_map.1 hc
      simp only
      omega

/-- In the range a read gives what was written, whatever the list was. -/
theorem get?_writeRange_inside (m : List (Nat × α)) (a : Nat) (vs : List α) {i : Nat} (hi : i < vs.length) :
    get? (writeRange m a vs) (a + i) = some vs[i] := by
  rw [writeRange, List.append_assoc, get?_append_of_lt fun c hc => by
    have := (List.mem_filter.1 hc).2
    simp only [decide_eq_true_eq] at this
    omega]
  generalize (m.filter fun c => decide (a + vs.length ≤ c.1)) = r
  have key : ∀ k, get? ((vs.zipIdx k).map (fun d => (a + d.2, d.1)) ++ r) (a + k + i) = some vs[i] := by
    clear m
    induction vs generalizing i with
    | nil => simp at hi
    | cons v vs ih =>
      intro k
      rw [List.zipIdx_cons, List.map_cons, List.cons_append, get?_cons]
      cases i with
      | zero => simp
      | succ i =>
        rw [if_pos (by simp only; omega), show a + k + (i + 1) = a + (k + 1) + i by omega,
          ih (by simpa using hi), List.getElem_cons_succ]
  exact key 0

/-- Outside the range a read gives what it gave before. -/
theorem get?_writeRange_outside {m : List (Nat × α)} (hm : wf m) (a : Nat) (vs : List α) {b : Nat}
    (hb : b < a ∨ a + vs.length ≤ b) : get? (writeRange m a vs) b = get? m b := by
  cases h : get? m b with
  | some v => exact get?_of_mem (wf_writeRange hm a vs) (mem_writeRange.2 (.inl ⟨mem_of_get? h, hb⟩))
  | none =>
    cases h' : get? (writeRange m a vs) b with
    | none => rfl
    | some v =>
      rcases mem_writeRange.1 (mem_of_get? h') with ⟨hc, -⟩ | ⟨i, hi, hc⟩
      · rw [get?_of_mem hm hc] at h; cases h
      · have : b = a + i := congrArg Prod.fst hc
        omega

/-- After a write the keys of its range are listed, and every other as before. -/
theorem isSome_get?_writeRange {m : List (Nat × α)} (hm : wf m) (a : Nat) (vs : List α) (b : Nat) :
    (get? (writeRange m a vs) b).isSome = ((get? m b).isSome || decide (a ≤ b ∧ b < a + vs.length)) := by
  by_cases h : a ≤ b ∧ b < a + vs.length
  · obtain ⟨i, rfl⟩ := Nat.exists_eq_add_of_le h.1
    rw [get?_writeRange_inside _ _ _ (by omega), decide_eq_true h]
    simp
  · rw [get?_writeRange_outside hm _ _ (by omega), decide_eq_false h, Bool.or_false]

/-- A key is listed exactly when a read of it gives a stored value. -/
theorem isSome_get?_iff {m : List (Nat × α)} (hm : wf m) {a : Nat} :
    (get? m a).isSome = true ↔ a ∈ m.map Prod.fst := by
  constructor
  · intro h
    obtain ⟨v, hv⟩ := Option.isSome_iff_exists.1 h
    exact List.mem_map.2 ⟨_, mem_of_get? hv, rfl⟩
  · intro h
    obtain ⟨⟨b, v⟩, hc, rfl⟩ := List.mem_map.1 h
    rw [get?_of_mem hm hc]
    rfl

/-- Writing twice at one place is writing the second values. -/
theorem writeRange_writeRange (m : List (Nat × α)) (a : Nat) (vs ws : List α) (h : vs.length = ws.length) :
    writeRange (writeRange m a vs) a ws = writeRange m a ws := by
  have key : ∀ p : Nat × α → Bool, (∀ c, p c = true → c.1 < a ∨ a + vs.length ≤ c.1) →
      (writeRange m a vs).filter p = (m.filter fun c => decide (c.1 < a)).filter p ++
        (m.filter fun c => decide (a + vs.length ≤ c.1)).filter p := by
    intro p hp
    have : (vs.zipIdx.map fun d => (a + d.2, d.1)).filter p = [] := by
      rw [List.filter_eq_nil_iff]
      intro c hc hpc
      obtain ⟨i, hi, rfl⟩ := mem_zipIdx_map.1 hc
      have := hp _ hpc
      simp only at this
      omega
    rw [writeRange, List.filter_append, List.filter_append, this, List.append_nil]
  have lo : (writeRange m a vs).filter (fun c => decide (c.1 < a)) = m.filter fun c => decide (c.1 < a) := by
    rw [key _ (fun c hc => .inl (by simpa using hc)), List.filter_filter, List.filter_filter]
    rw [show (m.filter fun c => decide (c.1 < a) && decide (a + vs.length ≤ c.1)) = [] by
      rw [List.filter_eq_nil_iff]
      intro c _
      simp only [Bool.and_eq_true, decide_eq_true_eq]
      omega]
    simp
  have hi : (writeRange m a vs).filter (fun c => decide (a + ws.length ≤ c.1)) =
      m.filter fun c => decide (a + ws.length ≤ c.1) := by
    rw [key _ (fun c hc => .inr (by simpa [h] using hc)), List.filter_filter, List.filter_filter]
    rw [show (m.filter fun c => decide (a + ws.length ≤ c.1) && decide (c.1 < a)) = [] by
      rw [List.filter_eq_nil_iff]
      intro c _
      simp only [Bool.and_eq_true, decide_eq_true_eq]
      omega]
    simp [h]
  rw [writeRange, lo, hi, ← writeRange]

end Sys2Proof.Machine.Memory
end

