-- ==== Sys2Proof/Laws/State.lean ====
section
/-! SUPPORT. What each shared update does to each field of State: one equation a field, by `rfl`. The proofs are written
`(rfl)` so that simp rewrites with them and leaves no unfolding to the kernel, which would otherwise evaluate the tables
that commands write. -/

namespace Sys2Proof.Machine

variable (s : State)

/-! ## writeBytes -/

@[simp] theorem writeBytes_busy (a : Nat) (vs : List Byte) : (writeBytes a vs s).busy = s.busy := (rfl)
@[simp] theorem writeBytes_done (a : Nat) (vs : List Byte) : (writeBytes a vs s).done = s.done := (rfl)
@[simp] theorem writeBytes_eq1 (a : Nat) (vs : List Byte) : (writeBytes a vs s).eq1 = s.eq1 := (rfl)
@[simp] theorem writeBytes_err (a : Nat) (vs : List Byte) : (writeBytes a vs s).err = s.err := (rfl)
@[simp] theorem writeBytes_ie (a : Nat) (vs : List Byte) : (writeBytes a vs s).ie = s.ie := (rfl)
@[simp] theorem writeBytes_poly (a : Nat) (vs : List Byte) : (writeBytes a vs s).poly = s.poly := (rfl)
@[simp] theorem writeBytes_result (a : Nat) (vs : List Byte) : (writeBytes a vs s).result = s.result := (rfl)
@[simp] theorem writeBytes_unres (a : Nat) (vs : List Byte) : (writeBytes a vs s).unres = s.unres := (rfl)
@[simp] theorem writeBytes_irrcnt (a : Nat) (vs : List Byte) : (writeBytes a vs s).irrcnt = s.irrcnt := (rfl)
@[simp] theorem writeBytes_gmax (a : Nat) (vs : List Byte) : (writeBytes a vs s).gmax = s.gmax := (rfl)
@[simp] theorem writeBytes_mem (a : Nat) (vs : List Byte) : (writeBytes a vs s).mem = Memory.writeRange s.mem a vs := (rfl)
@[simp] theorem writeBytes_irr (a : Nat) (vs : List Byte) : (writeBytes a vs s).irr = s.irr := (rfl)
@[simp] theorem writeBytes_invval (a : Nat) (vs : List Byte) : (writeBytes a vs s).invval = s.invval := (rfl)
@[simp] theorem writeBytes_sbval (a : Nat) (vs : List Byte) : (writeBytes a vs s).sbval = s.sbval := (rfl)
@[simp] theorem writeBytes_mark (a : Nat) (vs : List Byte) : (writeBytes a vs s).mark = s.mark := (rfl)
@[simp] theorem writeBytes_lcmd (a : Nat) (vs : List Byte) : (writeBytes a vs s).lcmd = s.lcmd := (rfl)
@[simp] theorem writeBytes_host (a : Nat) (vs : List Byte) : (writeBytes a vs s).host = s.host := (rfl)
@[simp] theorem writeBytes_rdata (a : Nat) (vs : List Byte) : (writeBytes a vs s).rdata = s.rdata := (rfl)
@[simp] theorem writeBytes_wait (a : Nat) (vs : List Byte) : (writeBytes a vs s).wait = s.wait := (rfl)
@[simp] theorem writeBytes_draws (a : Nat) (vs : List Byte) : (writeBytes a vs s).draws = s.draws := (rfl)
@[simp] theorem writeBytes_resets (a : Nat) (vs : List Byte) : (writeBytes a vs s).resets = s.resets := (rfl)

/-! ## storeInvWord -/

@[simp] theorem storeInvWord_busy (a : Nat) (w : Word) : (storeInvWord a w s).busy = s.busy := (rfl)
@[simp] theorem storeInvWord_done (a : Nat) (w : Word) : (storeInvWord a w s).done = s.done := (rfl)
@[simp] theorem storeInvWord_eq1 (a : Nat) (w : Word) : (storeInvWord a w s).eq1 = s.eq1 := (rfl)
@[simp] theorem storeInvWord_err (a : Nat) (w : Word) : (storeInvWord a w s).err = s.err := (rfl)
@[simp] theorem storeInvWord_ie (a : Nat) (w : Word) : (storeInvWord a w s).ie = s.ie := (rfl)
@[simp] theorem storeInvWord_poly (a : Nat) (w : Word) : (storeInvWord a w s).poly = s.poly := (rfl)
@[simp] theorem storeInvWord_result (a : Nat) (w : Word) : (storeInvWord a w s).result = s.result := (rfl)
@[simp] theorem storeInvWord_unres (a : Nat) (w : Word) : (storeInvWord a w s).unres = s.unres := (rfl)
@[simp] theorem storeInvWord_irrcnt (a : Nat) (w : Word) : (storeInvWord a w s).irrcnt = s.irrcnt := (rfl)
@[simp] theorem storeInvWord_gmax (a : Nat) (w : Word) : (storeInvWord a w s).gmax = s.gmax := (rfl)
@[simp] theorem storeInvWord_mem (a : Nat) (w : Word) : (storeInvWord a w s).mem = Memory.writeRange s.mem a (lanes w) := (rfl)
@[simp] theorem storeInvWord_irr (a : Nat) (w : Word) : (storeInvWord a w s).irr = s.irr := (rfl)
@[simp] theorem storeInvWord_invval (a : Nat) (w : Word) : (storeInvWord a w s).invval = setFour s.invval (a - invBase) := (rfl)
@[simp] theorem storeInvWord_sbval (a : Nat) (w : Word) : (storeInvWord a w s).sbval = s.sbval := (rfl)
@[simp] theorem storeInvWord_mark (a : Nat) (w : Word) : (storeInvWord a w s).mark = s.mark := (rfl)
@[simp] theorem storeInvWord_lcmd (a : Nat) (w : Word) : (storeInvWord a w s).lcmd = s.lcmd := (rfl)
@[simp] theorem storeInvWord_host (a : Nat) (w : Word) : (storeInvWord a w s).host = s.host := (rfl)
@[simp] theorem storeInvWord_rdata (a : Nat) (w : Word) : (storeInvWord a w s).rdata = s.rdata := (rfl)
@[simp] theorem storeInvWord_wait (a : Nat) (w : Word) : (storeInvWord a w s).wait = s.wait := (rfl)
@[simp] theorem storeInvWord_draws (a : Nat) (w : Word) : (storeInvWord a w s).draws = s.draws := (rfl)
@[simp] theorem storeInvWord_resets (a : Nat) (w : Word) : (storeInvWord a w s).resets = s.resets := (rfl)

/-! ## storeSboxWord -/

@[simp] theorem storeSboxWord_busy (a : Nat) (w : Word) : (storeSboxWord a w s).busy = s.busy := (rfl)
@[simp] theorem storeSboxWord_done (a : Nat) (w : Word) : (storeSboxWord a w s).done = s.done := (rfl)
@[simp] theorem storeSboxWord_eq1 (a : Nat) (w : Word) : (storeSboxWord a w s).eq1 = s.eq1 := (rfl)
@[simp] theorem storeSboxWord_err (a : Nat) (w : Word) : (storeSboxWord a w s).err = s.err := (rfl)
@[simp] theorem storeSboxWord_ie (a : Nat) (w : Word) : (storeSboxWord a w s).ie = s.ie := (rfl)
@[simp] theorem storeSboxWord_poly (a : Nat) (w : Word) : (storeSboxWord a w s).poly = s.poly := (rfl)
@[simp] theorem storeSboxWord_result (a : Nat) (w : Word) : (storeSboxWord a w s).result = s.result := (rfl)
@[simp] theorem storeSboxWord_unres (a : Nat) (w : Word) : (storeSboxWord a w s).unres = s.unres := (rfl)
@[simp] theorem storeSboxWord_irrcnt (a : Nat) (w : Word) : (storeSboxWord a w s).irrcnt = s.irrcnt := (rfl)
@[simp] theorem storeSboxWord_gmax (a : Nat) (w : Word) : (storeSboxWord a w s).gmax = s.gmax := (rfl)
@[simp] theorem storeSboxWord_mem (a : Nat) (w : Word) : (storeSboxWord a w s).mem = Memory.writeRange s.mem a (lanes w) := (rfl)
@[simp] theorem storeSboxWord_irr (a : Nat) (w : Word) : (storeSboxWord a w s).irr = s.irr := (rfl)
@[simp] theorem storeSboxWord_invval (a : Nat) (w : Word) : (storeSboxWord a w s).invval = s.invval := (rfl)
@[simp] theorem storeSboxWord_sbval (a : Nat) (w : Word) : (storeSboxWord a w s).sbval = setFour s.sbval (a - sboxBase) := (rfl)
@[simp] theorem storeSboxWord_mark (a : Nat) (w : Word) : (storeSboxWord a w s).mark = s.mark := (rfl)
@[simp] theorem storeSboxWord_lcmd (a : Nat) (w : Word) : (storeSboxWord a w s).lcmd = s.lcmd := (rfl)
@[simp] theorem storeSboxWord_host (a : Nat) (w : Word) : (storeSboxWord a w s).host = s.host := (rfl)
@[simp] theorem storeSboxWord_rdata (a : Nat) (w : Word) : (storeSboxWord a w s).rdata = s.rdata := (rfl)
@[simp] theorem storeSboxWord_wait (a : Nat) (w : Word) : (storeSboxWord a w s).wait = s.wait := (rfl)
@[simp] theorem storeSboxWord_draws (a : Nat) (w : Word) : (storeSboxWord a w s).draws = s.draws := (rfl)
@[simp] theorem storeSboxWord_resets (a : Nat) (w : Word) : (storeSboxWord a w s).resets = s.resets := (rfl)

/-! ## writeResult -/

@[simp] theorem writeResult_busy (v : Product) : (writeResult v s).busy = s.busy := (rfl)
@[simp] theorem writeResult_done (v : Product) : (writeResult v s).done = s.done := (rfl)
@[simp] theorem writeResult_eq1 (v : Product) : (writeResult v s).eq1 = s.eq1 := (rfl)
@[simp] theorem writeResult_err (v : Product) : (writeResult v s).err = s.err := (rfl)
@[simp] theorem writeResult_ie (v : Product) : (writeResult v s).ie = s.ie := (rfl)
@[simp] theorem writeResult_poly (v : Product) : (writeResult v s).poly = s.poly := (rfl)
@[simp] theorem writeResult_result (v : Product) : (writeResult v s).result = v := (rfl)
@[simp] theorem writeResult_unres (v : Product) : (writeResult v s).unres = s.unres := (rfl)
@[simp] theorem writeResult_irrcnt (v : Product) : (writeResult v s).irrcnt = s.irrcnt := (rfl)
@[simp] theorem writeResult_gmax (v : Product) : (writeResult v s).gmax = s.gmax := (rfl)
@[simp] theorem writeResult_mem (v : Product) : (writeResult v s).mem = s.mem := (rfl)
@[simp] theorem writeResult_irr (v : Product) : (writeResult v s).irr = s.irr := (rfl)
@[simp] theorem writeResult_invval (v : Product) : (writeResult v s).invval = s.invval := (rfl)
@[simp] theorem writeResult_sbval (v : Product) : (writeResult v s).sbval = s.sbval := (rfl)
@[simp] theorem writeResult_mark (v : Product) : (writeResult v s).mark = s.mark := (rfl)
@[simp] theorem writeResult_lcmd (v : Product) : (writeResult v s).lcmd = s.lcmd := (rfl)
@[simp] theorem writeResult_host (v : Product) : (writeResult v s).host = s.host := (rfl)
@[simp] theorem writeResult_rdata (v : Product) : (writeResult v s).rdata = s.rdata := (rfl)
@[simp] theorem writeResult_wait (v : Product) : (writeResult v s).wait = s.wait := (rfl)
@[simp] theorem writeResult_draws (v : Product) : (writeResult v s).draws = s.draws := (rfl)
@[simp] theorem writeResult_resets (v : Product) : (writeResult v s).resets = s.resets := (rfl)

/-! ## writeEq1 -/

@[simp] theorem writeEq1_busy (v : Byte) : (writeEq1 v s).busy = s.busy := (rfl)
@[simp] theorem writeEq1_done (v : Byte) : (writeEq1 v s).done = s.done := (rfl)
@[simp] theorem writeEq1_eq1 (v : Byte) : (writeEq1 v s).eq1 = (v == 0x01#8) := (rfl)
@[simp] theorem writeEq1_err (v : Byte) : (writeEq1 v s).err = s.err := (rfl)
@[simp] theorem writeEq1_ie (v : Byte) : (writeEq1 v s).ie = s.ie := (rfl)
@[simp] theorem writeEq1_poly (v : Byte) : (writeEq1 v s).poly = s.poly := (rfl)
@[simp] theorem writeEq1_result (v : Byte) : (writeEq1 v s).result = s.result := (rfl)
@[simp] theorem writeEq1_unres (v : Byte) : (writeEq1 v s).unres = s.unres := (rfl)
@[simp] theorem writeEq1_irrcnt (v : Byte) : (writeEq1 v s).irrcnt = s.irrcnt := (rfl)
@[simp] theorem writeEq1_gmax (v : Byte) : (writeEq1 v s).gmax = s.gmax := (rfl)
@[simp] theorem writeEq1_mem (v : Byte) : (writeEq1 v s).mem = s.mem := (rfl)
@[simp] theorem writeEq1_irr (v : Byte) : (writeEq1 v s).irr = s.irr := (rfl)
@[simp] theorem writeEq1_invval (v : Byte) : (writeEq1 v s).invval = s.invval := (rfl)
@[simp] theorem writeEq1_sbval (v : Byte) : (writeEq1 v s).sbval = s.sbval := (rfl)
@[simp] theorem writeEq1_mark (v : Byte) : (writeEq1 v s).mark = s.mark := (rfl)
@[simp] theorem writeEq1_lcmd (v : Byte) : (writeEq1 v s).lcmd = s.lcmd := (rfl)
@[simp] theorem writeEq1_host (v : Byte) : (writeEq1 v s).host = s.host := (rfl)
@[simp] theorem writeEq1_rdata (v : Byte) : (writeEq1 v s).rdata = s.rdata := (rfl)
@[simp] theorem writeEq1_wait (v : Byte) : (writeEq1 v s).wait = s.wait := (rfl)
@[simp] theorem writeEq1_draws (v : Byte) : (writeEq1 v s).draws = s.draws := (rfl)
@[simp] theorem writeEq1_resets (v : Byte) : (writeEq1 v s).resets = s.resets := (rfl)

/-! ## writeReduced -/

@[simp] theorem writeReduced_busy (v : Byte) : (writeReduced v s).busy = s.busy := (rfl)
@[simp] theorem writeReduced_done (v : Byte) : (writeReduced v s).done = s.done := (rfl)
@[simp] theorem writeReduced_eq1 (v : Byte) : (writeReduced v s).eq1 = (v == 0x01#8) := (rfl)
@[simp] theorem writeReduced_err (v : Byte) : (writeReduced v s).err = s.err := (rfl)
@[simp] theorem writeReduced_ie (v : Byte) : (writeReduced v s).ie = s.ie := (rfl)
@[simp] theorem writeReduced_poly (v : Byte) : (writeReduced v s).poly = s.poly := (rfl)
@[simp] theorem writeReduced_result (v : Byte) : (writeReduced v s).result = v.setWidth 16 := (rfl)
@[simp] theorem writeReduced_unres (v : Byte) : (writeReduced v s).unres = s.unres := (rfl)
@[simp] theorem writeReduced_irrcnt (v : Byte) : (writeReduced v s).irrcnt = s.irrcnt := (rfl)
@[simp] theorem writeReduced_gmax (v : Byte) : (writeReduced v s).gmax = s.gmax := (rfl)
@[simp] theorem writeReduced_mem (v : Byte) : (writeReduced v s).mem = s.mem := (rfl)
@[simp] theorem writeReduced_irr (v : Byte) : (writeReduced v s).irr = s.irr := (rfl)
@[simp] theorem writeReduced_invval (v : Byte) : (writeReduced v s).invval = s.invval := (rfl)
@[simp] theorem writeReduced_sbval (v : Byte) : (writeReduced v s).sbval = s.sbval := (rfl)
@[simp] theorem writeReduced_mark (v : Byte) : (writeReduced v s).mark = s.mark := (rfl)
@[simp] theorem writeReduced_lcmd (v : Byte) : (writeReduced v s).lcmd = s.lcmd := (rfl)
@[simp] theorem writeReduced_host (v : Byte) : (writeReduced v s).host = s.host := (rfl)
@[simp] theorem writeReduced_rdata (v : Byte) : (writeReduced v s).rdata = s.rdata := (rfl)
@[simp] theorem writeReduced_wait (v : Byte) : (writeReduced v s).wait = s.wait := (rfl)
@[simp] theorem writeReduced_draws (v : Byte) : (writeReduced v s).draws = s.draws := (rfl)
@[simp] theorem writeReduced_resets (v : Byte) : (writeReduced v s).resets = s.resets := (rfl)

/-! ## writeInv -/

@[simp] theorem writeInv_busy (t : List Byte) : (writeInv t s).busy = s.busy := (rfl)
@[simp] theorem writeInv_done (t : List Byte) : (writeInv t s).done = s.done := (rfl)
@[simp] theorem writeInv_eq1 (t : List Byte) : (writeInv t s).eq1 = s.eq1 := (rfl)
@[simp] theorem writeInv_err (t : List Byte) : (writeInv t s).err = s.err := (rfl)
@[simp] theorem writeInv_ie (t : List Byte) : (writeInv t s).ie = s.ie := (rfl)
@[simp] theorem writeInv_poly (t : List Byte) : (writeInv t s).poly = s.poly := (rfl)
@[simp] theorem writeInv_result (t : List Byte) : (writeInv t s).result = s.result := (rfl)
@[simp] theorem writeInv_unres (t : List Byte) : (writeInv t s).unres = s.unres := (rfl)
@[simp] theorem writeInv_irrcnt (t : List Byte) : (writeInv t s).irrcnt = s.irrcnt := (rfl)
@[simp] theorem writeInv_gmax (t : List Byte) : (writeInv t s).gmax = s.gmax := (rfl)
@[simp] theorem writeInv_mem (t : List Byte) : (writeInv t s).mem = Memory.writeRange s.mem invBase t := (rfl)
@[simp] theorem writeInv_irr (t : List Byte) : (writeInv t s).irr = s.irr := (rfl)
@[simp] theorem writeInv_invval (t : List Byte) : (writeInv t s).invval = BitVec.allOnes 256 := (rfl)
@[simp] theorem writeInv_sbval (t : List Byte) : (writeInv t s).sbval = s.sbval := (rfl)
@[simp] theorem writeInv_mark (t : List Byte) : (writeInv t s).mark = s.mark := (rfl)
@[simp] theorem writeInv_lcmd (t : List Byte) : (writeInv t s).lcmd = s.lcmd := (rfl)
@[simp] theorem writeInv_host (t : List Byte) : (writeInv t s).host = s.host := (rfl)
@[simp] theorem writeInv_rdata (t : List Byte) : (writeInv t s).rdata = s.rdata := (rfl)
@[simp] theorem writeInv_wait (t : List Byte) : (writeInv t s).wait = s.wait := (rfl)
@[simp] theorem writeInv_draws (t : List Byte) : (writeInv t s).draws = s.draws := (rfl)
@[simp] theorem writeInv_resets (t : List Byte) : (writeInv t s).resets = s.resets := (rfl)

/-! ## writeUnres -/

@[simp] theorem writeUnres_busy (u : Byte) : (writeUnres u s).busy = s.busy := (rfl)
@[simp] theorem writeUnres_done (u : Byte) : (writeUnres u s).done = s.done := (rfl)
@[simp] theorem writeUnres_eq1 (u : Byte) : (writeUnres u s).eq1 = s.eq1 := (rfl)
@[simp] theorem writeUnres_err (u : Byte) : (writeUnres u s).err = s.err := (rfl)
@[simp] theorem writeUnres_ie (u : Byte) : (writeUnres u s).ie = s.ie := (rfl)
@[simp] theorem writeUnres_poly (u : Byte) : (writeUnres u s).poly = s.poly := (rfl)
@[simp] theorem writeUnres_result (u : Byte) : (writeUnres u s).result = s.result := (rfl)
@[simp] theorem writeUnres_unres (u : Byte) : (writeUnres u s).unres = u := (rfl)
@[simp] theorem writeUnres_irrcnt (u : Byte) : (writeUnres u s).irrcnt = s.irrcnt := (rfl)
@[simp] theorem writeUnres_gmax (u : Byte) : (writeUnres u s).gmax = s.gmax := (rfl)
@[simp] theorem writeUnres_mem (u : Byte) : (writeUnres u s).mem = s.mem := (rfl)
@[simp] theorem writeUnres_irr (u : Byte) : (writeUnres u s).irr = s.irr := (rfl)
@[simp] theorem writeUnres_invval (u : Byte) : (writeUnres u s).invval = s.invval := (rfl)
@[simp] theorem writeUnres_sbval (u : Byte) : (writeUnres u s).sbval = s.sbval := (rfl)
@[simp] theorem writeUnres_mark (u : Byte) : (writeUnres u s).mark = s.mark := (rfl)
@[simp] theorem writeUnres_lcmd (u : Byte) : (writeUnres u s).lcmd = s.lcmd := (rfl)
@[simp] theorem writeUnres_host (u : Byte) : (writeUnres u s).host = s.host := (rfl)
@[simp] theorem writeUnres_rdata (u : Byte) : (writeUnres u s).rdata = s.rdata := (rfl)
@[simp] theorem writeUnres_wait (u : Byte) : (writeUnres u s).wait = s.wait := (rfl)
@[simp] theorem writeUnres_draws (u : Byte) : (writeUnres u s).draws = s.draws := (rfl)
@[simp] theorem writeUnres_resets (u : Byte) : (writeUnres u s).resets = s.resets := (rfl)

/-! ## writeIrr -/

@[simp] theorem writeIrr_busy (rs : List Poly) : (writeIrr rs s).busy = s.busy := (rfl)
@[simp] theorem writeIrr_done (rs : List Poly) : (writeIrr rs s).done = s.done := (rfl)
@[simp] theorem writeIrr_eq1 (rs : List Poly) : (writeIrr rs s).eq1 = s.eq1 := (rfl)
@[simp] theorem writeIrr_err (rs : List Poly) : (writeIrr rs s).err = s.err := (rfl)
@[simp] theorem writeIrr_ie (rs : List Poly) : (writeIrr rs s).ie = s.ie := (rfl)
@[simp] theorem writeIrr_poly (rs : List Poly) : (writeIrr rs s).poly = s.poly := (rfl)
@[simp] theorem writeIrr_result (rs : List Poly) : (writeIrr rs s).result = s.result := (rfl)
@[simp] theorem writeIrr_unres (rs : List Poly) : (writeIrr rs s).unres = s.unres := (rfl)
@[simp] theorem writeIrr_irrcnt (rs : List Poly) : (writeIrr rs s).irrcnt = BitVec.ofNat 8 rs.length := (rfl)
@[simp] theorem writeIrr_gmax (rs : List Poly) : (writeIrr rs s).gmax = s.gmax := (rfl)
@[simp] theorem writeIrr_mem (rs : List Poly) : (writeIrr rs s).mem = s.mem := (rfl)
@[simp] theorem writeIrr_irr (rs : List Poly) : (writeIrr rs s).irr = Memory.writeRange s.irr 0 rs := (rfl)
@[simp] theorem writeIrr_invval (rs : List Poly) : (writeIrr rs s).invval = s.invval := (rfl)
@[simp] theorem writeIrr_sbval (rs : List Poly) : (writeIrr rs s).sbval = s.sbval := (rfl)
@[simp] theorem writeIrr_mark (rs : List Poly) : (writeIrr rs s).mark = s.mark := (rfl)
@[simp] theorem writeIrr_lcmd (rs : List Poly) : (writeIrr rs s).lcmd = s.lcmd := (rfl)
@[simp] theorem writeIrr_host (rs : List Poly) : (writeIrr rs s).host = s.host := (rfl)
@[simp] theorem writeIrr_rdata (rs : List Poly) : (writeIrr rs s).rdata = s.rdata := (rfl)
@[simp] theorem writeIrr_wait (rs : List Poly) : (writeIrr rs s).wait = s.wait := (rfl)
@[simp] theorem writeIrr_draws (rs : List Poly) : (writeIrr rs s).draws = s.draws := (rfl)
@[simp] theorem writeIrr_resets (rs : List Poly) : (writeIrr rs s).resets = s.resets := (rfl)

/-! ## writeSbox -/

@[simp] theorem writeSbox_busy (t : List Byte) : (writeSbox t s).busy = s.busy := (rfl)
@[simp] theorem writeSbox_done (t : List Byte) : (writeSbox t s).done = s.done := (rfl)
@[simp] theorem writeSbox_eq1 (t : List Byte) : (writeSbox t s).eq1 = s.eq1 := (rfl)
@[simp] theorem writeSbox_err (t : List Byte) : (writeSbox t s).err = s.err := (rfl)
@[simp] theorem writeSbox_ie (t : List Byte) : (writeSbox t s).ie = s.ie := (rfl)
@[simp] theorem writeSbox_poly (t : List Byte) : (writeSbox t s).poly = s.poly := (rfl)
@[simp] theorem writeSbox_result (t : List Byte) : (writeSbox t s).result = s.result := (rfl)
@[simp] theorem writeSbox_unres (t : List Byte) : (writeSbox t s).unres = s.unres := (rfl)
@[simp] theorem writeSbox_irrcnt (t : List Byte) : (writeSbox t s).irrcnt = s.irrcnt := (rfl)
@[simp] theorem writeSbox_gmax (t : List Byte) : (writeSbox t s).gmax = s.gmax := (rfl)
@[simp] theorem writeSbox_mem (t : List Byte) : (writeSbox t s).mem = Memory.writeRange s.mem sboxBase t := (rfl)
@[simp] theorem writeSbox_irr (t : List Byte) : (writeSbox t s).irr = s.irr := (rfl)
@[simp] theorem writeSbox_invval (t : List Byte) : (writeSbox t s).invval = s.invval := (rfl)
@[simp] theorem writeSbox_sbval (t : List Byte) : (writeSbox t s).sbval = BitVec.allOnes 256 := (rfl)
@[simp] theorem writeSbox_mark (t : List Byte) : (writeSbox t s).mark = s.mark := (rfl)
@[simp] theorem writeSbox_lcmd (t : List Byte) : (writeSbox t s).lcmd = s.lcmd := (rfl)
@[simp] theorem writeSbox_host (t : List Byte) : (writeSbox t s).host = s.host := (rfl)
@[simp] theorem writeSbox_rdata (t : List Byte) : (writeSbox t s).rdata = s.rdata := (rfl)
@[simp] theorem writeSbox_wait (t : List Byte) : (writeSbox t s).wait = s.wait := (rfl)
@[simp] theorem writeSbox_draws (t : List Byte) : (writeSbox t s).draws = s.draws := (rfl)
@[simp] theorem writeSbox_resets (t : List Byte) : (writeSbox t s).resets = s.resets := (rfl)

/-! ## writeDev -/

@[simp] theorem writeDev_busy (vs : List Byte) : (writeDev vs s).busy = s.busy := (rfl)
@[simp] theorem writeDev_done (vs : List Byte) : (writeDev vs s).done = s.done := (rfl)
@[simp] theorem writeDev_eq1 (vs : List Byte) : (writeDev vs s).eq1 = s.eq1 := (rfl)
@[simp] theorem writeDev_err (vs : List Byte) : (writeDev vs s).err = s.err := (rfl)
@[simp] theorem writeDev_ie (vs : List Byte) : (writeDev vs s).ie = s.ie := (rfl)
@[simp] theorem writeDev_poly (vs : List Byte) : (writeDev vs s).poly = s.poly := (rfl)
@[simp] theorem writeDev_result (vs : List Byte) : (writeDev vs s).result = s.result := (rfl)
@[simp] theorem writeDev_unres (vs : List Byte) : (writeDev vs s).unres = s.unres := (rfl)
@[simp] theorem writeDev_irrcnt (vs : List Byte) : (writeDev vs s).irrcnt = s.irrcnt := (rfl)
@[simp] theorem writeDev_gmax (vs : List Byte) : (writeDev vs s).gmax = s.gmax := (rfl)
@[simp] theorem writeDev_mem (vs : List Byte) : (writeDev vs s).mem = Memory.writeRange s.mem (devBase + 256) vs := (rfl)
@[simp] theorem writeDev_irr (vs : List Byte) : (writeDev vs s).irr = s.irr := (rfl)
@[simp] theorem writeDev_invval (vs : List Byte) : (writeDev vs s).invval = s.invval := (rfl)
@[simp] theorem writeDev_sbval (vs : List Byte) : (writeDev vs s).sbval = s.sbval := (rfl)
@[simp] theorem writeDev_mark (vs : List Byte) : (writeDev vs s).mark = s.mark := (rfl)
@[simp] theorem writeDev_lcmd (vs : List Byte) : (writeDev vs s).lcmd = s.lcmd := (rfl)
@[simp] theorem writeDev_host (vs : List Byte) : (writeDev vs s).host = s.host := (rfl)
@[simp] theorem writeDev_rdata (vs : List Byte) : (writeDev vs s).rdata = s.rdata := (rfl)
@[simp] theorem writeDev_wait (vs : List Byte) : (writeDev vs s).wait = s.wait := (rfl)
@[simp] theorem writeDev_draws (vs : List Byte) : (writeDev vs s).draws = s.draws := (rfl)
@[simp] theorem writeDev_resets (vs : List Byte) : (writeDev vs s).resets = s.resets := (rfl)

/-! ## writeGmax -/

@[simp] theorem writeGmax_busy (v : Byte) : (writeGmax v s).busy = s.busy := (rfl)
@[simp] theorem writeGmax_done (v : Byte) : (writeGmax v s).done = s.done := (rfl)
@[simp] theorem writeGmax_eq1 (v : Byte) : (writeGmax v s).eq1 = s.eq1 := (rfl)
@[simp] theorem writeGmax_err (v : Byte) : (writeGmax v s).err = s.err := (rfl)
@[simp] theorem writeGmax_ie (v : Byte) : (writeGmax v s).ie = s.ie := (rfl)
@[simp] theorem writeGmax_poly (v : Byte) : (writeGmax v s).poly = s.poly := (rfl)
@[simp] theorem writeGmax_result (v : Byte) : (writeGmax v s).result = s.result := (rfl)
@[simp] theorem writeGmax_unres (v : Byte) : (writeGmax v s).unres = s.unres := (rfl)
@[simp] theorem writeGmax_irrcnt (v : Byte) : (writeGmax v s).irrcnt = s.irrcnt := (rfl)
@[simp] theorem writeGmax_gmax (v : Byte) : (writeGmax v s).gmax = v := (rfl)
@[simp] theorem writeGmax_mem (v : Byte) : (writeGmax v s).mem = s.mem := (rfl)
@[simp] theorem writeGmax_irr (v : Byte) : (writeGmax v s).irr = s.irr := (rfl)
@[simp] theorem writeGmax_invval (v : Byte) : (writeGmax v s).invval = s.invval := (rfl)
@[simp] theorem writeGmax_sbval (v : Byte) : (writeGmax v s).sbval = s.sbval := (rfl)
@[simp] theorem writeGmax_mark (v : Byte) : (writeGmax v s).mark = s.mark := (rfl)
@[simp] theorem writeGmax_lcmd (v : Byte) : (writeGmax v s).lcmd = s.lcmd := (rfl)
@[simp] theorem writeGmax_host (v : Byte) : (writeGmax v s).host = s.host := (rfl)
@[simp] theorem writeGmax_rdata (v : Byte) : (writeGmax v s).rdata = s.rdata := (rfl)
@[simp] theorem writeGmax_wait (v : Byte) : (writeGmax v s).wait = s.wait := (rfl)
@[simp] theorem writeGmax_draws (v : Byte) : (writeGmax v s).draws = s.draws := (rfl)
@[simp] theorem writeGmax_resets (v : Byte) : (writeGmax v s).resets = s.resets := (rfl)

/-! ## leaveMark -/

@[simp] theorem leaveMark_busy : (leaveMark s).busy = s.busy := (rfl)
@[simp] theorem leaveMark_done : (leaveMark s).done = s.done := (rfl)
@[simp] theorem leaveMark_eq1 : (leaveMark s).eq1 = s.eq1 := (rfl)
@[simp] theorem leaveMark_err : (leaveMark s).err = s.err := (rfl)
@[simp] theorem leaveMark_ie : (leaveMark s).ie = s.ie := (rfl)
@[simp] theorem leaveMark_poly : (leaveMark s).poly = s.poly := (rfl)
@[simp] theorem leaveMark_result : (leaveMark s).result = s.result := (rfl)
@[simp] theorem leaveMark_unres : (leaveMark s).unres = s.unres := (rfl)
@[simp] theorem leaveMark_irrcnt : (leaveMark s).irrcnt = s.irrcnt := (rfl)
@[simp] theorem leaveMark_gmax : (leaveMark s).gmax = s.gmax := (rfl)
@[simp] theorem leaveMark_mem : (leaveMark s).mem = s.mem := (rfl)
@[simp] theorem leaveMark_irr : (leaveMark s).irr = s.irr := (rfl)
@[simp] theorem leaveMark_invval : (leaveMark s).invval = s.invval := (rfl)
@[simp] theorem leaveMark_sbval : (leaveMark s).sbval = s.sbval := (rfl)
@[simp] theorem leaveMark_mark : (leaveMark s).mark = Config.markLeft s.draws := (rfl)
@[simp] theorem leaveMark_lcmd : (leaveMark s).lcmd = s.lcmd := (rfl)
@[simp] theorem leaveMark_host : (leaveMark s).host = s.host := (rfl)
@[simp] theorem leaveMark_rdata : (leaveMark s).rdata = s.rdata := (rfl)
@[simp] theorem leaveMark_wait : (leaveMark s).wait = s.wait := (rfl)
@[simp] theorem leaveMark_draws : (leaveMark s).draws = s.draws + 1 := (rfl)
@[simp] theorem leaveMark_resets : (leaveMark s).resets = s.resets := (rfl)

/-! ## raise -/

@[simp] theorem raise_busy (c : Cause) : (raise c s).busy = s.busy := (rfl)
@[simp] theorem raise_done (c : Cause) : (raise c s).done = s.done := (rfl)
@[simp] theorem raise_eq1 (c : Cause) : (raise c s).eq1 = s.eq1 := (rfl)
@[simp] theorem raise_err (c : Cause) : (raise c s).err = s.err ||| (1#4 <<< c.bit) := (rfl)
@[simp] theorem raise_ie (c : Cause) : (raise c s).ie = s.ie := (rfl)
@[simp] theorem raise_poly (c : Cause) : (raise c s).poly = s.poly := (rfl)
@[simp] theorem raise_result (c : Cause) : (raise c s).result = s.result := (rfl)
@[simp] theorem raise_unres (c : Cause) : (raise c s).unres = s.unres := (rfl)
@[simp] theorem raise_irrcnt (c : Cause) : (raise c s).irrcnt = s.irrcnt := (rfl)
@[simp] theorem raise_gmax (c : Cause) : (raise c s).gmax = s.gmax := (rfl)
@[simp] theorem raise_mem (c : Cause) : (raise c s).mem = s.mem := (rfl)
@[simp] theorem raise_irr (c : Cause) : (raise c s).irr = s.irr := (rfl)
@[simp] theorem raise_invval (c : Cause) : (raise c s).invval = s.invval := (rfl)
@[simp] theorem raise_sbval (c : Cause) : (raise c s).sbval = s.sbval := (rfl)
@[simp] theorem raise_mark (c : Cause) : (raise c s).mark = s.mark := (rfl)
@[simp] theorem raise_lcmd (c : Cause) : (raise c s).lcmd = s.lcmd := (rfl)
@[simp] theorem raise_host (c : Cause) : (raise c s).host = s.host := (rfl)
@[simp] theorem raise_rdata (c : Cause) : (raise c s).rdata = s.rdata := (rfl)
@[simp] theorem raise_wait (c : Cause) : (raise c s).wait = s.wait := (rfl)
@[simp] theorem raise_draws (c : Cause) : (raise c s).draws = s.draws := (rfl)
@[simp] theorem raise_resets (c : Cause) : (raise c s).resets = s.resets := (rfl)

/-! ## accept -/

@[simp] theorem accept_busy (w : Word) : (accept w s).busy = true := (rfl)
@[simp] theorem accept_done (w : Word) : (accept w s).done = false := (rfl)
@[simp] theorem accept_eq1 (w : Word) : (accept w s).eq1 = s.eq1 := (rfl)
@[simp] theorem accept_err (w : Word) : (accept w s).err = s.err := (rfl)
@[simp] theorem accept_ie (w : Word) : (accept w s).ie = s.ie := (rfl)
@[simp] theorem accept_poly (w : Word) : (accept w s).poly = s.poly := (rfl)
@[simp] theorem accept_result (w : Word) : (accept w s).result = s.result := (rfl)
@[simp] theorem accept_unres (w : Word) : (accept w s).unres = s.unres := (rfl)
@[simp] theorem accept_irrcnt (w : Word) : (accept w s).irrcnt = s.irrcnt := (rfl)
@[simp] theorem accept_gmax (w : Word) : (accept w s).gmax = s.gmax := (rfl)
@[simp] theorem accept_mem (w : Word) : (accept w s).mem = s.mem := (rfl)
@[simp] theorem accept_irr (w : Word) : (accept w s).irr = s.irr := (rfl)
@[simp] theorem accept_invval (w : Word) : (accept w s).invval = s.invval := (rfl)
@[simp] theorem accept_sbval (w : Word) : (accept w s).sbval = s.sbval := (rfl)
@[simp] theorem accept_mark (w : Word) : (accept w s).mark = s.mark := (rfl)
@[simp] theorem accept_lcmd (w : Word) : (accept w s).lcmd = w := (rfl)
@[simp] theorem accept_host (w : Word) : (accept w s).host = s.host := (rfl)
@[simp] theorem accept_rdata (w : Word) : (accept w s).rdata = s.rdata := (rfl)
@[simp] theorem accept_wait (w : Word) : (accept w s).wait = Config.eventsBeforeCompletion s.draws ⟨w, polyReg s, s.mem⟩ := (rfl)
@[simp] theorem accept_draws (w : Word) : (accept w s).draws = s.draws + 1 := (rfl)
@[simp] theorem accept_resets (w : Word) : (accept w s).resets = s.resets := (rfl)

/-! ## finish -/

@[simp] theorem finish_busy : (finish s).busy = false := (rfl)
@[simp] theorem finish_done : (finish s).done = true := (rfl)
@[simp] theorem finish_eq1 : (finish s).eq1 = s.eq1 := (rfl)
@[simp] theorem finish_err : (finish s).err = s.err := (rfl)
@[simp] theorem finish_ie : (finish s).ie = s.ie := (rfl)
@[simp] theorem finish_poly : (finish s).poly = s.poly := (rfl)
@[simp] theorem finish_result : (finish s).result = s.result := (rfl)
@[simp] theorem finish_unres : (finish s).unres = s.unres := (rfl)
@[simp] theorem finish_irrcnt : (finish s).irrcnt = s.irrcnt := (rfl)
@[simp] theorem finish_gmax : (finish s).gmax = s.gmax := (rfl)
@[simp] theorem finish_mem : (finish s).mem = s.mem := (rfl)
@[simp] theorem finish_irr : (finish s).irr = s.irr := (rfl)
@[simp] theorem finish_invval : (finish s).invval = s.invval := (rfl)
@[simp] theorem finish_sbval : (finish s).sbval = s.sbval := (rfl)
@[simp] theorem finish_mark : (finish s).mark = s.mark := (rfl)
@[simp] theorem finish_lcmd : (finish s).lcmd = s.lcmd := (rfl)
@[simp] theorem finish_host : (finish s).host = s.host := (rfl)
@[simp] theorem finish_rdata : (finish s).rdata = s.rdata := (rfl)
@[simp] theorem finish_wait : (finish s).wait = 0 := (rfl)
@[simp] theorem finish_draws : (finish s).draws = s.draws := (rfl)
@[simp] theorem finish_resets : (finish s).resets = s.resets := (rfl)

/-! ## latch -/

@[simp] theorem latch_busy (w : Word) : (latch w s).busy = true := (rfl)
@[simp] theorem latch_done (w : Word) : (latch w s).done = false := (rfl)
@[simp] theorem latch_eq1 (w : Word) : (latch w s).eq1 = s.eq1 := (rfl)
@[simp] theorem latch_err (w : Word) : (latch w s).err = s.err := (rfl)
@[simp] theorem latch_ie (w : Word) : (latch w s).ie = s.ie := (rfl)
@[simp] theorem latch_poly (w : Word) : (latch w s).poly = s.poly := (rfl)
@[simp] theorem latch_result (w : Word) : (latch w s).result = s.result := (rfl)
@[simp] theorem latch_unres (w : Word) : (latch w s).unres = s.unres := (rfl)
@[simp] theorem latch_irrcnt (w : Word) : (latch w s).irrcnt = s.irrcnt := (rfl)
@[simp] theorem latch_gmax (w : Word) : (latch w s).gmax = s.gmax := (rfl)
@[simp] theorem latch_mem (w : Word) : (latch w s).mem = s.mem := (rfl)
@[simp] theorem latch_irr (w : Word) : (latch w s).irr = s.irr := (rfl)
@[simp] theorem latch_invval (w : Word) : (latch w s).invval = s.invval := (rfl)
@[simp] theorem latch_sbval (w : Word) : (latch w s).sbval = s.sbval := (rfl)
@[simp] theorem latch_mark (w : Word) : (latch w s).mark = s.mark := (rfl)
@[simp] theorem latch_lcmd (w : Word) : (latch w s).lcmd = w := (rfl)
@[simp] theorem latch_host (w : Word) : (latch w s).host = s.host := (rfl)
@[simp] theorem latch_rdata (w : Word) : (latch w s).rdata = s.rdata := (rfl)
@[simp] theorem latch_wait (w : Word) : (latch w s).wait = 0 := (rfl)
@[simp] theorem latch_draws (w : Word) : (latch w s).draws = s.draws := (rfl)
@[simp] theorem latch_resets (w : Word) : (latch w s).resets = s.resets := (rfl)

/-! ## popped -/

@[simp] theorem popped_busy (rest : List HostEvent) : (s.popped rest).busy = s.busy := (rfl)
@[simp] theorem popped_done (rest : List HostEvent) : (s.popped rest).done = s.done := (rfl)
@[simp] theorem popped_eq1 (rest : List HostEvent) : (s.popped rest).eq1 = s.eq1 := (rfl)
@[simp] theorem popped_err (rest : List HostEvent) : (s.popped rest).err = s.err := (rfl)
@[simp] theorem popped_ie (rest : List HostEvent) : (s.popped rest).ie = s.ie := (rfl)
@[simp] theorem popped_poly (rest : List HostEvent) : (s.popped rest).poly = s.poly := (rfl)
@[simp] theorem popped_result (rest : List HostEvent) : (s.popped rest).result = s.result := (rfl)
@[simp] theorem popped_unres (rest : List HostEvent) : (s.popped rest).unres = s.unres := (rfl)
@[simp] theorem popped_irrcnt (rest : List HostEvent) : (s.popped rest).irrcnt = s.irrcnt := (rfl)
@[simp] theorem popped_gmax (rest : List HostEvent) : (s.popped rest).gmax = s.gmax := (rfl)
@[simp] theorem popped_mem (rest : List HostEvent) : (s.popped rest).mem = s.mem := (rfl)
@[simp] theorem popped_irr (rest : List HostEvent) : (s.popped rest).irr = s.irr := (rfl)
@[simp] theorem popped_invval (rest : List HostEvent) : (s.popped rest).invval = s.invval := (rfl)
@[simp] theorem popped_sbval (rest : List HostEvent) : (s.popped rest).sbval = s.sbval := (rfl)
@[simp] theorem popped_mark (rest : List HostEvent) : (s.popped rest).mark = s.mark := (rfl)
@[simp] theorem popped_lcmd (rest : List HostEvent) : (s.popped rest).lcmd = s.lcmd := (rfl)
@[simp] theorem popped_host (rest : List HostEvent) : (s.popped rest).host = rest := (rfl)
@[simp] theorem popped_rdata (rest : List HostEvent) : (s.popped rest).rdata = s.rdata := (rfl)
@[simp] theorem popped_wait (rest : List HostEvent) : (s.popped rest).wait = s.wait - 1 := (rfl)
@[simp] theorem popped_draws (rest : List HostEvent) : (s.popped rest).draws = s.draws := (rfl)
@[simp] theorem popped_resets (rest : List HostEvent) : (s.popped rest).resets = s.resets := (rfl)
@[simp] theorem polyReg_popped (rest : List HostEvent) : polyReg (s.popped rest) = polyReg s := (rfl)

/-! ## assertReset -/

@[simp] theorem assertReset_busy : (assertReset s).busy = false := (rfl)
@[simp] theorem assertReset_done : (assertReset s).done = false := (rfl)
@[simp] theorem assertReset_eq1 : (assertReset s).eq1 = false := (rfl)
@[simp] theorem assertReset_err : (assertReset s).err = 0#4 := (rfl)
@[simp] theorem assertReset_ie : (assertReset s).ie = 0#2 := (rfl)
@[simp] theorem assertReset_poly : (assertReset s).poly = 0x1B#8 := (rfl)
@[simp] theorem assertReset_result : (assertReset s).result = 0#16 := (rfl)
@[simp] theorem assertReset_unres : (assertReset s).unres = 0#8 := (rfl)
@[simp] theorem assertReset_irrcnt : (assertReset s).irrcnt = 0#8 := (rfl)
@[simp] theorem assertReset_gmax : (assertReset s).gmax = 0#8 := (rfl)
@[simp] theorem assertReset_mem : (assertReset s).mem = [] := (rfl)
@[simp] theorem assertReset_irr : (assertReset s).irr = [] := (rfl)
@[simp] theorem assertReset_invval : (assertReset s).invval = 0#256 := (rfl)
@[simp] theorem assertReset_sbval : (assertReset s).sbval = 0#256 := (rfl)
@[simp] theorem assertReset_mark : (assertReset s).mark = 0#256 := (rfl)
@[simp] theorem assertReset_lcmd : (assertReset s).lcmd = 0#32 := (rfl)
@[simp] theorem assertReset_host : (assertReset s).host = s.host := (rfl)
@[simp] theorem assertReset_rdata : (assertReset s).rdata = s.rdata := (rfl)
@[simp] theorem assertReset_wait : (assertReset s).wait = 0 := (rfl)
@[simp] theorem assertReset_draws : (assertReset s).draws = s.draws := (rfl)
@[simp] theorem assertReset_resets : (assertReset s).resets = s.resets + 1 := (rfl)

/-! ## Computed flags do not see the fields they are not made of -/

@[simp] theorem polyReg_writeResult (v : Product) : polyReg (writeResult v s) = polyReg s := (rfl)
@[simp] theorem polyReg_writeReduced (v : Byte) : polyReg (writeReduced v s) = polyReg s := (rfl)
@[simp] theorem polyReg_finish : polyReg (finish s) = polyReg s := (rfl)
@[simp] theorem polyReg_latch (w : Word) : polyReg (latch w s) = polyReg s := (rfl)

end Sys2Proof.Machine
end

