-- ==== Sys2Proof/Laws/Ops.lean ====
section
/-! SUPPORT. One lemma per shared operation that says once what it can do; later proofs cite it and do not unfold the
operation. -/

namespace Sys2Proof.Machine

variable {s t : State}

/-! ## Cells -/

/-- A cell's value depends on the memory and the reset epoch alone. -/
theorem readByte_congr (hm : t.mem = s.mem) (hr : t.resets = s.resets) (a : Nat) : readByte t a = readByte s a := by
  rw [readByte, readByte, hm, hr]

/-- Many cells are read as one by one. -/
theorem readBytes_eq_map (s : State) (a n : Nat) :
    readBytes s a n = (List.range n).map fun i => readByte s (a + i) := Memory.readRange_eq_map ..

@[simp] theorem length_readBytes (s : State) (a n : Nat) : (readBytes s a n).length = n := by
  simp [readBytes_eq_map]

theorem getElem_readBytes (s : State) (a n i : Nat) (h : i < (readBytes s a n).length) :
    (readBytes s a n)[i] = readByte s (a + i) := by simp [readBytes_eq_map]

/-- A cell in the written range holds what was written. -/
theorem readByte_of_written {a : Nat} {vs : List Byte} (hm : t.mem = Memory.writeRange s.mem a vs) {i : Nat}
    (hi : i < vs.length) : readByte t (a + i) = vs[i] := by
  rw [readByte, hm, Memory.get?_writeRange_inside _ _ _ hi, Option.getD_some]

/-- A cell outside the written range keeps its value. -/
theorem readByte_of_not_written (hs : Memory.wf s.mem) {a : Nat} {vs : List Byte}
    (hm : t.mem = Memory.writeRange s.mem a vs) (hr : t.resets = s.resets) {b : Nat}
    (hb : b < a ∨ a + vs.length ≤ b) : readByte t b = readByte s b := by
  rw [readByte, readByte, hm, hr, Memory.get?_writeRange_outside hs _ _ hb]

/-- The same for a range: every cell outside it is kept. -/
theorem cellsKept_of_written (hs : Memory.wf s.mem) {a : Nat} {vs : List Byte}
    (hm : t.mem = Memory.writeRange s.mem a vs) (hr : t.resets = s.resets) :
    CellsKeptOutside s t a (a + vs.length) := fun _ hb => readByte_of_not_written hs hm hr hb

@[simp] theorem length_lanes (w : Word) : (lanes w).length = 4 := rfl

/-- The four lanes make up the word (20_memory.md R66). -/
theorem lanes_append (w : Word) :
    (w.extractLsb' 24 8 ++ w.extractLsb' 16 8 ++ w.extractLsb' 8 8 ++ w.extractLsb' 0 8 : BitVec 32) = w := by
  ext i hi
  simp only [BitVec.getElem_append, BitVec.getElem_extractLsb']
  split
  · simp only [Nat.zero_add]; exact BitVec.getLsbD_eq_getElem hi
  · split
    · rw [show 8 + (i - 8) = i by omega]; exact BitVec.getLsbD_eq_getElem hi
    · split
      · rw [show 16 + (i - 8 - 8) = i by omega]; exact BitVec.getLsbD_eq_getElem hi
      · rw [show 24 + (i - 8 - 8 - 8) = i by omega]; exact BitVec.getLsbD_eq_getElem hi

/-- Reading back a written word of a packed array (20_memory.md R66). -/
theorem readWord_of_written {a : Nat} {w : Word} (hm : t.mem = Memory.writeRange s.mem a (lanes w)) :
    readWord t a = w := by
  have h : ∀ i, (hi : i < 4) → readByte t (a + i) = (lanes w)[i]'hi := fun i hi =>
    readByte_of_written hm hi
  have h0 := h 0 (by omega)
  rw [Nat.add_zero] at h0
  rw [readWord, h 3 (by omega), h 2 (by omega), h 1 (by omega), h0]
  exact lanes_append w

/-! ## Valid bits -/

/-- The four valid bits of a word, and no other, are set (10_state.md R41). -/
theorem getLsbD_setFour (v : BitVec 256) (k i : Nat) (hi : i < 256) :
    (setFour v k).getLsbD i = (v.getLsbD i || (decide (k ≤ i) && decide (i < k + 4))) := by
  have h15 : ∀ n, (0xF#256).getLsbD n = decide (n < 4) := by
    intro n
    rcases Nat.lt_or_ge n 4 with h | h
    · interval_cases n <;> rfl
    · rw [BitVec.getLsbD_ofNat, Nat.testBit_lt_two_pow (Nat.lt_of_lt_of_le (by omega) (Nat.pow_le_pow_right (by omega) h))]
      simp; omega
  rw [setFour, BitVec.getLsbD_or, BitVec.getLsbD_shiftLeft, h15]
  congr 1
  by_cases h : i < k
  · simp [hi, h]
  · have h' : k ≤ i := by omega
    have e : (i - k < 4) = (i < k + 4) := by rw [eq_iff_iff]; omega
    simp [hi, h', e]

/-- All 256 bits of a vector are set. -/
theorem beq_allOnes_iff (v : BitVec 256) : (v == BitVec.allOnes 256) = true ↔ ∀ k < 256, v.getLsbD k = true := by
  rw [beq_iff_eq]
  constructor
  · rintro rfl k hk
    rw [BitVec.getLsbD_allOnes, decide_eq_true hk]
  · intro h
    apply BitVec.eq_of_getLsbD_eq
    intro k hk
    rw [h k hk, BitVec.getLsbD_allOnes, decide_eq_true hk]

theorem invFull_iff : invFull s = true ↔ ∀ k < 256, s.invval.getLsbD k = true := beq_allOnes_iff _

theorem sbFull_iff : sbFull s = true ↔ ∀ k < 256, s.sbval.getLsbD k = true := beq_allOnes_iff _

/-! ## Errors and the handshake -/

/-- Raising an error sets its bit and no other (60_exceptions.md R230). -/
theorem raise_getLsbD (c : Cause) (s : State) (n : Nat) :
    (raise c s).err.getLsbD n = (s.err.getLsbD n || decide (n = c.bit)) := by
  rw [raise_err, BitVec.getLsbD_or]
  congr 1
  cases c <;> rcases n with _ | _ | _ | _ | n <;> simp [Cause.bit]

/-- A command issue takes exactly one of its five branches (30_encoding.md R102). -/
theorem issue_cases (w : Word) (s : State) :
    (s.busy = true ∧ issue w s = raise .busywr s) ∨
    (s.busy = false ∧ legal w = false ∧ issue w s = raise .illop s) ∨
    (s.busy = false ∧ legal w = true ∧ fieldOp w = 0x7#4 ∧ invFull s = false ∧ issue w s = raise .incompl s) ∨
    (s.busy = false ∧ legal w = true ∧ fieldOp w = 0x8#4 ∧ sbFull s = false ∧ issue w s = raise .incompl s) ∨
    (s.busy = false ∧ legal w = true ∧ (fieldOp w = 0x7#4 → invFull s = true) ∧
      (fieldOp w = 0x8#4 → sbFull s = true) ∧ issue w s = accept w s) := by
  rw [issue]
  by_cases hb : s.busy = true
  · exact .inl ⟨hb, if_pos hb⟩
  · rw [if_neg hb]
    replace hb : s.busy = false := by simpa using hb
    by_cases hl : legal w = true
    · rw [if_neg (by simp [hl])]
      by_cases h7 : fieldOp w = 0x7#4
      · cases hf : invFull s
        · exact .inr (.inr (.inl ⟨hb, hl, h7, rfl, if_pos (by simp [h7])⟩))
        · refine .inr (.inr (.inr (.inr ⟨hb, hl, fun _ => rfl, fun h8 => ?_, ?_⟩)))
          · rw [h7] at h8; exact absurd h8 (by decide)
          · rw [if_neg (by simp), if_neg (by simp [h7])]
      · rw [if_neg (by simp [h7])]
        by_cases h8 : fieldOp w = 0x8#4
        · cases hf : sbFull s
          · exact .inr (.inr (.inr (.inl ⟨hb, hl, h8, rfl, if_pos (by simp [h8])⟩)))
          · exact .inr (.inr (.inr (.inr ⟨hb, hl, fun h => absurd h h7, fun _ => rfl, if_neg (by simp)⟩)))
        · exact .inr (.inr (.inr (.inr ⟨hb, hl, fun h => absurd h h7, fun h => absurd h h8, if_neg (by simp [h8])⟩)))
    · exact .inr (.inl ⟨hb, by simpa using hl, if_pos (by simp [hl])⟩)

/-- A write that is dropped while busy (20_memory.md R71). -/
theorem unlessBusy_cases (f : State → State) (s : State) :
    (s.busy = true ∧ unlessBusy f s = raise .busywr s) ∨ (s.busy = false ∧ unlessBusy f s = f s) := by
  rw [unlessBusy]
  cases hb : s.busy <;> simp

/-! ## The port -/

/-- A read raises ADDR, or draws a free value, or gives the idle word; nothing else changes (20_memory.md R69, R71). -/
theorem hostRead_cases (a : Addr) (s : State) :
    (badAddress (locate a) = true ∧ hostRead a s = raise .addr { s with rdata := 0#32 }) ∨
    (badAddress (locate a) = false ∧ s.busy = true ∧ hiddenWhileBusy (locate a) = true ∧
      hostRead a s = { s with
        rdata := Config.busyRead s.draws a { lcmd := s.lcmd, poly := polyReg s, mem := s.mem }
        draws := s.draws + 1 }) ∨
    (badAddress (locate a) = false ∧ (s.busy = false ∨ hiddenWhileBusy (locate a) = false) ∧
      hostRead a s = { s with rdata := idleWord s a }) := by
  rw [hostRead]
  cases badAddress (locate a)
  · cases s.busy <;> cases hiddenWhileBusy (locate a) <;> simp
  · simp

/-- What a read does to ERR: it raises ADDR, or leaves ERR (20_memory.md R69). -/
theorem hostRead_err (a : Addr) (s : State) :
    hostRead a s = raise .addr { s with rdata := 0#32 } ∨ (hostRead a s).err = s.err := by
  rcases hostRead_cases a s with ⟨-, h⟩ | ⟨-, -, -, h⟩ | ⟨-, -, h⟩
  · exact .inl h
  all_goals rw [h]; exact .inr rfl

/-- The address map in numbers, one clause a target (20_memory.md R62, R64). -/
theorem locate_dev (a : Addr) (h : a.toNat % 4 = 0) (h' : 0x10000 ≤ a.toNat) : locate a = .dev := by
  rw [locate]
  split_ifs <;> first | rfl | omega

theorem locate_inv (a : Addr) (h : a.toNat % 4 = 0) (h₁ : 0x00100 ≤ a.toNat) (h₂ : a.toNat < 0x00200) :
    locate a = .inv := by
  rw [locate]
  split_ifs <;> first | rfl | omega

theorem locate_sbox (a : Addr) (h : a.toNat % 4 = 0) (h₁ : 0x00200 ≤ a.toNat) (h₂ : a.toNat < 0x00300) :
    locate a = .sbox := by
  rw [locate]
  split_ifs <;> first | rfl | omega

theorem locate_irr (a : Addr) (h : a.toNat % 4 = 0) (h₁ : 0x00400 ≤ a.toNat) (h₂ : a.toNat < 0x00600) :
    locate a = .irr := by
  rw [locate]
  split_ifs <;> first | rfl | omega

theorem locate_misaligned (a : Addr) (h : a.toNat % 4 ≠ 0) : locate a = .misaligned := by
  rw [locate]
  rw [if_pos h]

/-- A register or an unmapped offset is not an array. -/
theorem regAt_cases (n : Nat) : regAt n = .unmapped ∨ ∃ r, regAt n = .reg r := by
  unfold regAt
  split <;> first | exact .inr ⟨_, rfl⟩ | exact .inl rfl

/-- Where an array target's address lies. -/
theorem locate_array (a : Addr) :
    (locate a = .inv → a.toNat % 4 = 0 ∧ 0x00100 ≤ a.toNat ∧ a.toNat < 0x00200) ∧
    (locate a = .sbox → a.toNat % 4 = 0 ∧ 0x00200 ≤ a.toNat ∧ a.toNat < 0x00300) ∧
    (locate a = .irr → a.toNat % 4 = 0 ∧ 0x00400 ≤ a.toNat ∧ a.toNat < 0x00600) ∧
    (locate a = .dev → a.toNat % 4 = 0 ∧ 0x10000 ≤ a.toNat ∧ a.toNat < 0x20000) := by
  have hlt := a.isLt
  rw [locate]
  split_ifs
  case pos => simp
  case pos => rcases regAt_cases a.toNat with h | ⟨r, h⟩ <;> simp [h]
  all_goals simp; try omega

end Sys2Proof.Machine
end

