-- ==== Sys2Proof/Laws/Step.lean ====
section
/-! SUPPORT. What a command, a host event and a step can do: one inversion lemma each. -/

namespace Sys2Proof.Machine

variable {s t : State}

/-! ## Commands -/

@[simp] theorem exec_nop (s : State) : exec .nop s = .next s := (rfl)
@[simp] theorem exec_clmul (a b : Byte) (s : State) : exec (.clmul a b) s = .next (writeResult (clmul a b) s) := (rfl)
@[simp] theorem exec_pmod (p : Product) (s : State) :
    exec (.pmod p) s = .next (writeReduced (reduce p (polyReg s)) s) := (rfl)
@[simp] theorem exec_gfmul (a b : Byte) (s : State) :
    exec (.gfmul a b) s = .next (writeReduced (reduce (clmul a b) (polyReg s)) s) := (rfl)
@[simp] theorem exec_invgen (s : State) :
    exec .invgen s = .next (leaveMark (writeUnres (BitVec.ofNat 8 (invfind (polyReg s)).unres)
      (writeInv (invfind (polyReg s)).table s))) := (rfl)
@[simp] theorem exec_irrscan (s : State) : exec .irrscan s = .next (leaveMark (writeIrr irreducibles s)) := (rfl)
@[simp] theorem exec_affine (x : Byte) (s : State) :
    exec (.affine x) s = .next (writeResult ((aff x).setWidth 16) s) := (rfl)
@[simp] theorem exec_afftab (raw : Bool) (s : State) :
    exec (.afftab raw) s = .next (writeSbox ((invTable s).map fun v => if raw then v else aff v) s) := (rfl)
@[simp] theorem exec_linan (s : State) :
    exec .linan s = .next (writeDev (usedRows.flatMap (deviationRow (sboxTable s))) s) := (rfl)
@[simp] theorem exec_sort (s : State) :
    exec .sort s = .next
      (writeGmax (((usedRows.map fun i => sortrow (devRow s i)).map rowLast).foldl maxByte 0#8)
        (writeDev (usedRows.map fun i => sortrow (devRow s i)).flatten s)) := (rfl)

/-- `execute` is total (30_encoding.md R104). -/
theorem exec_next (i : Instr) (s : State) : ∃ t, exec i s = .next t := by
  cases i <;> simp only [exec_nop, exec_clmul, exec_pmod, exec_gfmul, exec_invgen, exec_irrscan, exec_affine,
    exec_afftab, exec_linan, exec_sort, Host.Outcome.next.injEq, exists_eq']

/-- What no command changes: the handshake, the errors, IE, POLY, LCMD, and the outside's fields. -/
theorem exec_keeps {i : Instr} (h : exec i s = .next t) :
    t.busy = s.busy ∧ t.done = s.done ∧ t.err = s.err ∧ t.ie = s.ie ∧ t.poly = s.poly ∧ t.lcmd = s.lcmd ∧
      t.host = s.host ∧ t.rdata = s.rdata ∧ t.wait = s.wait ∧ t.resets = s.resets := by
  cases i <;> simp only [exec_nop, exec_clmul, exec_pmod, exec_gfmul, exec_invgen, exec_irrscan, exec_affine,
    exec_afftab, exec_linan, exec_sort, Host.Outcome.next.injEq] at h <;> subst h <;> simp

/-- A legal word decodes (30_encoding.md R101). -/
theorem decode_of_legal {w : Word} (h : legal w = true) : ∃ i, decode w = .ok i := by
  unfold legal at h
  unfold decode
  split at h <;> simp_all [decodeAs]

/-! ## The host -/

/-- What a write to the port can do (20_memory.md R68, R71; 60_exceptions.md R236). -/
theorem hostWrite_cases (a : Addr) (w : Word) (s : State) :
    (badAddress (locate a) = true ∧ hostWrite a w s = raise .addr s) ∨
    (locate a = .reg .cmd ∧ hostWrite a w s = issue w s) ∨
    (locate a = .reg .status ∧ hostWrite a w s = if w.getLsbD 1 then { s with done := false } else s) ∨
    (locate a = .reg .err ∧ hostWrite a w s = { s with err := s.err &&& ~~~(w.extractLsb' 0 4) }) ∨
    (locate a = .reg .ie ∧ hostWrite a w s = { s with ie := w.extractLsb' 0 2 }) ∨
    (locate a = .reg .poly ∧ hostWrite a w s = unlessBusy (fun t => { t with poly := w.extractLsb' 0 8 }) s) ∨
    (locate a = .inv ∧ hostWrite a w s = unlessBusy (storeInvWord a.toNat w) s) ∨
    (locate a = .sbox ∧ hostWrite a w s = unlessBusy (storeSboxWord a.toNat w) s) ∨
    (locate a = .dev ∧ hostWrite a w s = unlessBusy (writeBytes a.toNat (lanes w)) s) ∨
    ((locate a = .irr ∨ locate a = .reg .result ∨ locate a = .reg .unres ∨ locate a = .reg .irrcnt ∨
      locate a = .reg .gmax ∨ locate a = .reg .valid) ∧ hostWrite a w s = s) := by
  rw [hostWrite]
  rcases locate a with _ | _ | r | _ | _ | _ | _
  case reg => cases r <;> simp [writeReg, badAddress]
  all_goals simp [badAddress]

/-- What no write to the port changes: the results, IRR, MARK and the outside's fields but for a free draw. -/
theorem hostWrite_keeps (a : Addr) (w : Word) (s : State) :
    (hostWrite a w s).eq1 = s.eq1 ∧ (hostWrite a w s).result = s.result ∧ (hostWrite a w s).unres = s.unres ∧
      (hostWrite a w s).irrcnt = s.irrcnt ∧ (hostWrite a w s).gmax = s.gmax ∧ (hostWrite a w s).irr = s.irr ∧
      (hostWrite a w s).mark = s.mark ∧ (hostWrite a w s).host = s.host ∧ (hostWrite a w s).rdata = s.rdata ∧
      (hostWrite a w s).resets = s.resets := by
  have cmd : ∀ w, (issue w s).eq1 = s.eq1 ∧ (issue w s).result = s.result ∧ (issue w s).unres = s.unres ∧
      (issue w s).irrcnt = s.irrcnt ∧ (issue w s).gmax = s.gmax ∧ (issue w s).irr = s.irr ∧
      (issue w s).mark = s.mark ∧ (issue w s).host = s.host ∧ (issue w s).rdata = s.rdata ∧
      (issue w s).resets = s.resets := by
    intro w
    rcases issue_cases w s with ⟨-, h⟩ | ⟨-, -, h⟩ | ⟨-, -, -, -, h⟩ | ⟨-, -, -, -, h⟩ | ⟨-, -, -, -, h⟩ <;>
      rw [h] <;> simp
  rcases hostWrite_cases a w s with ⟨-, h⟩ | ⟨-, h⟩ | ⟨-, h⟩ | ⟨-, h⟩ | ⟨-, h⟩ | ⟨-, h⟩ | ⟨-, h⟩ | ⟨-, h⟩ | ⟨-, h⟩ |
    ⟨-, h⟩ <;> rw [h]
  · simp
  · exact cmd w
  · split <;> simp
  · simp
  · simp
  all_goals first
    | (rcases unlessBusy_cases _ s with ⟨-, h⟩ | ⟨-, h⟩ <;> (rw [h]; simp))
    | simp

/-- What a write does to ERR: it raises one error and does nothing else, or leaves ERR, or is the write to ERR itself
(60_exceptions.md R236, R239). -/
theorem hostWrite_err (a : Addr) (w : Word) (s : State) :
    (∃ c, hostWrite a w s = raise c s) ∨ (hostWrite a w s).err = s.err ∨
      (locate a = .reg .err ∧ hostWrite a w s = { s with err := s.err &&& ~~~(w.extractLsb' 0 4) }) := by
  have drop : ∀ f : State → State, (f s).err = s.err →
      (∃ c, unlessBusy f s = raise c s) ∨ (unlessBusy f s).err = s.err := by
    intro f hf
    rcases unlessBusy_cases f s with ⟨-, h⟩ | ⟨-, h⟩
    · exact .inl ⟨_, h⟩
    · exact .inr (by rw [h, hf])
  rcases hostWrite_cases a w s with ⟨-, h⟩ | ⟨-, h⟩ | ⟨-, h⟩ | ⟨hl, h⟩ | ⟨-, h⟩ | ⟨-, h⟩ | ⟨-, h⟩ | ⟨-, h⟩ | ⟨-, h⟩ |
    ⟨-, h⟩ <;> rw [h]
  · exact .inl ⟨_, rfl⟩
  · rcases issue_cases w s with ⟨-, h⟩ | ⟨-, -, h⟩ | ⟨-, -, -, -, h⟩ | ⟨-, -, -, -, h⟩ | ⟨-, -, -, -, h⟩ <;> rw [h]
    any_goals exact .inl ⟨_, rfl⟩
    exact .inr (.inl rfl)
  · split <;> exact .inr (.inl rfl)
  · exact .inr (.inr ⟨hl, rfl⟩)
  · exact .inr (.inl rfl)
  · exact (drop (fun t => { t with poly := w.extractLsb' 0 8 }) rfl).imp_right .inl
  · exact (drop (storeInvWord a.toNat w) rfl).imp_right .inl
  · exact (drop (storeSboxWord a.toNat w) rfl).imp_right .inl
  · exact (drop (writeBytes a.toNat (lanes w)) rfl).imp_right .inl
  · exact .inr (.inl rfl)

/-- What no read of the port changes: everything but ERR, the word read and the draw counter (20_memory.md R69). -/
theorem hostRead_frame (a : Addr) (s : State) :
    hostRead a s = { s with
      err := (hostRead a s).err
      rdata := (hostRead a s).rdata
      draws := (hostRead a s).draws } := by
  rcases hostRead_cases a s with ⟨-, h⟩ | ⟨-, -, -, h⟩ | ⟨-, -, h⟩
  · rw [h]
    rfl
  all_goals rw [h]

/-- A poll is a read of STATUS, which may stay at the head of the list (30_encoding.md R106). -/
theorem hostEvent_poll (s : State) :
    hostEvent .poll s = { s with
      rdata := statusWord s
      host := if s.busy then .poll :: s.host else s.host } := by
  have h : hostRead statusAddr s = { s with rdata := statusWord s } := by
    rw [hostRead, show badAddress (locate statusAddr) = false from rfl,
      show hiddenWhileBusy (locate statusAddr) = false from rfl]
    simp only [Bool.and_false, Bool.false_eq_true, if_false]
    rfl
  have hb : (statusWord s).getLsbD 0 = s.busy := by
    simp only [statusWord, BitVec.getLsbD_append]
    cases s.busy <;> simp
  rw [hostEvent]
  simp only [h, hb]
  cases s.busy <;> rfl

/-! ## A step -/

/-- A step is the completion of the latched command, or a turn of the host (20_memory.md R72, R73). -/
theorem step_cases (h : step s = .next t) :
    (∃ i u, coreMoves s = true ∧ decode s.lcmd = .ok i ∧ exec i s = .next u ∧ t = finish u) ∨
    (coreMoves s = false ∧ s.host = [] ∧ t = s) ∨
    (∃ e rest, s.HostTurn e rest ∧ t = hostEvent e (s.popped rest)) := by
  rw [step] at h
  by_cases hc : coreMoves s = true
  · rw [if_pos hc, complete] at h
    cases hd : decode s.lcmd with
    | error e => rw [hd] at h; cases h
    | ok i =>
      obtain ⟨u, hu⟩ := exec_next i s
      rw [hd] at h
      simp only [hu, finishOutcome] at h
      cases h
      exact .inl ⟨i, u, hc, rfl, hu, rfl⟩
  · rw [if_neg hc, hostStep] at h
    replace hc : coreMoves s = false := by simpa using hc
    cases hh : s.host with
    | nil => rw [hh] at h; cases h; exact .inr (.inl ⟨hc, rfl, rfl⟩)
    | cons e rest => rw [hh] at h; cases h; exact .inr (.inr ⟨e, rest, ⟨hh, hc⟩, rfl⟩)

/-- The completion of a command (30_encoding.md R104). -/
theorem step_of_coreTurn {i : Instr} {u : State} (hc : s.CoreTurn i) (hu : exec i s = .next u) :
    step s = .next (finish u) := by
  rw [step, if_pos hc.1, complete, hc.2]
  simp only [hu, finishOutcome]

/-- A turn of the host. -/
theorem step_of_hostTurn {e : HostEvent} {rest : List HostEvent} (h : s.HostTurn e rest) :
    step s = .next (hostEvent e (s.popped rest)) := by
  rw [step, h.2, hostStep, h.1]
  rfl

/-- Whose turn it is, in the terms of the fields: the host's while the core is idle or events still go first. -/
theorem coreMoves_eq_false_of_idle (h : s.busy = false) : coreMoves s = false := by simp [coreMoves, h]

theorem coreMoves_eq_true_iff : coreMoves s = true ↔ s.busy = true ∧ (s.wait = 0 ∨ s.host = []) := by
  simp [coreMoves]

end Sys2Proof.Machine
end

