-- ==== Sys2Proof/Laws/Tables.lean ====
section
/-! SUPPORT. The tables that commands write: their lengths, their bounds, and where a row's cell stands. -/

namespace Sys2Proof.Machine

/-! ## The inverse finder -/

theorem length_finderStep (r : Poly) (f : Finder) (i : Nat) :
    (finderStep r f i).table.length = f.table.length := by
  rw [finderStep]
  split
  · rfl
  · split <;> simp

/-- The inverse table has 256 entries. -/
theorem length_invfind (r : Poly) : (invfind r).table.length = 256 := by
  have : ∀ (l : List Nat) (f : Finder), (l.foldl (finderStep r) f).table.length = f.table.length := by
    intro l
    induction l with
    | nil => intro f; rfl
    | cons i l ih => intro f; rw [List.foldl_cons, ih, length_finderStep]
  rw [invfind, this]
  simp only [finderStart, List.length_cons, List.length_replicate]

/-- At most the 254 bytes of 2..255 stay unresolved. -/
theorem unres_invfind_le (r : Poly) : (invfind r).unres ≤ 254 := by
  have step1 : ∀ (f : Finder) (i : Nat), (finderStep r f i).unres ≤ f.unres + 1 := by
    intro f i
    rw [finderStep]
    split
    · omega
    · split <;> simp
  have : ∀ (l : List Nat) (f : Finder), (l.foldl (finderStep r) f).unres ≤ f.unres + l.length := by
    intro l
    induction l with
    | nil => intro f; simp
    | cons i l ih =>
      intro f
      rw [List.foldl_cons, List.length_cons]
      have := ih (finderStep r f i)
      have := step1 f i
      omega
  have := this (List.range' 2 254) finderStart
  rw [List.length_range', show finderStart.unres = 0 from rfl] at this
  rw [invfind]
  omega

/-- IRR has room for every irreducible candidate (10_state.md R33, R39). -/
theorem length_irreducibles_le : irreducibles.length ≤ 128 := by
  calc irreducibles.length ≤ candidates.length := List.length_filter_le ..
    _ = 128 := by rw [candidates, List.length_map, List.length_range]

/-! ## Rows of the deviation matrix -/

theorem length_deviationRow (S : List Byte) (i : Nat) : (deviationRow S i).length = 256 := by
  simp [deviationRow]

theorem length_sortrow (v : List Byte) : (sortrow v).length = v.length := List.length_insertionSort ..

theorem length_devRow (s : State) (i : Nat) : (devRow s i).length = 256 := length_readBytes ..

/-- Rows of 256 cells one after another: how many cells. -/
theorem length_rows (f : Nat → List Byte) (hf : ∀ i, (f i).length = 256) (a n : Nat) :
    ((List.range' a n).flatMap f).length = 256 * n := by
  induction n generalizing a with
  | zero => rfl
  | succ n ih => rw [List.range'_succ, List.flatMap_cons, List.length_append, ih, hf]; omega

/-- Rows of 256 cells one after another: cell j of the row at position n stands at 256 n + j. -/
theorem getElem_rows (f : Nat → List Byte) (hf : ∀ i, (f i).length = 256) (a m n j : Nat) (hn : n < m) (hj : j < 256)
    (h : 256 * n + j < ((List.range' a m).flatMap f).length) :
    ((List.range' a m).flatMap f)[256 * n + j] = (f (a + n))[j]'(by rw [hf]; exact hj) := by
  induction m generalizing a n with
  | zero => omega
  | succ m ih =>
    simp only [List.range'_succ, List.flatMap_cons]
    cases n with
    | zero =>
      rw [List.getElem_append_left (by rw [hf]; omega)]
      simp
    | succ n =>
      rw [List.getElem_append_right (by rw [hf]; omega)]
      have e : 256 * (n + 1) + j - (f a).length = 256 * n + j := by rw [hf]; omega
      simp only [e]
      rw [ih (a + 1) n (by omega)]
      simp only [show a + 1 + n = a + (n + 1) by omega]

end Sys2Proof.Machine
end

