-- ==== Sys2Proof/Laws/Evaluate.lean ====
section
/-! SUPPORT. The field functions on plain numbers, for proofs that the kernel must evaluate many products of: each is one
expression over Nat operations, and equals the model's function. -/

namespace Sys2Proof.Machine

/-- One addend of the carryless product: b[j] * (a << j). -/
def mulBit (a b j : Nat) : Nat := Nat.mul (Nat.mod (Nat.shiftRight b j) 2) (Nat.shiftLeft a j)

/-- The carryless product on numbers. -/
def clmulNat (a b : Nat) : Nat :=
  Nat.xor (Nat.xor (Nat.xor (Nat.xor (Nat.xor (Nat.xor (Nat.xor (mulBit a b 0) (mulBit a b 1)) (mulBit a b 2))
    (mulBit a b 3)) (mulBit a b 4)) (mulBit a b 5)) (mulBit a b 6)) (mulBit a b 7)

/-- One step of the division on numbers: at position k + 8. -/
def divStep (t r k : Nat) : Nat := Nat.xor t (Nat.mul (Nat.mod (Nat.shiftRight t (Nat.add k 8)) 2) (Nat.shiftLeft r k))

/-- The remainder on numbers. -/
def reduceNat (p r : Nat) : Nat :=
  divStep (divStep (divStep (divStep (divStep (divStep (divStep (divStep p r 7) r 6) r 5) r 4) r 3) r 2) r 1) r 0

theorem testBit_eq_mod (b j : Nat) : b.testBit j = decide ((b >>> j) % 2 = 1) := by
  simp [Nat.testBit, Nat.one_and_eq_mod_two, bne]

theorem toNat_mulStep (t : Product) (a b : Byte) (j : Nat) (hj : j < 8) :
    (if b.getLsbD j then t ^^^ (a.setWidth 16 <<< j) else t).toNat = t.toNat ^^^ mulBit a.toNat b.toNat j := by
  have ha : a.toNat < 2 ^ 8 := a.isLt
  have hs : a.toNat * 2 ^ j < 2 ^ 16 :=
    Nat.lt_of_lt_of_le (Nat.mul_lt_mul_of_pos_right ha (by positivity))
      (by rw [← Nat.pow_add]; exact Nat.pow_le_pow_right (by omega) (by omega))
  have hsh : (a.setWidth 16 <<< j).toNat = a.toNat <<< j := by
    rw [BitVec.toNat_shiftLeft, BitVec.toNat_setWidth, Nat.mod_eq_of_lt (a := a.toNat) (by omega),
      Nat.mod_eq_of_lt (by rw [Nat.shiftLeft_eq]; exact hs)]
  rw [show mulBit a.toNat b.toNat j = b.toNat >>> j % 2 * a.toNat <<< j from rfl, BitVec.getLsbD, testBit_eq_mod]
  rcases Nat.mod_two_eq_zero_or_one (b.toNat >>> j) with h | h
  · simp [h]
  · simp [h, hsh]

/-- The model's product on numbers. -/
theorem toNat_clmul (a b : Byte) : (clmul a b).toNat = clmulNat a.toNat b.toNat := by
  rw [clmul]
  simp only [List.foldl]
  rw [toNat_mulStep _ _ _ _ (by omega), toNat_mulStep _ _ _ _ (by omega), toNat_mulStep _ _ _ _ (by omega),
    toNat_mulStep _ _ _ _ (by omega), toNat_mulStep _ _ _ _ (by omega), toNat_mulStep _ _ _ _ (by omega),
    toNat_mulStep _ _ _ _ (by omega), toNat_mulStep _ _ _ _ (by omega)]
  rw [BitVec.toNat_ofNat, Nat.zero_mod, Nat.zero_xor]
  rfl

theorem toNat_divStep (t : Product) (r : Poly) (k : Nat) (hk : k < 8) :
    (if t.getLsbD (k + 8) then t ^^^ (r.setWidth 16 <<< k) else t).toNat = divStep t.toNat r.toNat k := by
  have hr : r.toNat < 2 ^ 9 := r.isLt
  have hs : r.toNat * 2 ^ k < 2 ^ 16 :=
    Nat.lt_of_lt_of_le (Nat.mul_lt_mul_of_pos_right hr (by positivity))
      (by rw [← Nat.pow_add]; exact Nat.pow_le_pow_right (by omega) (by omega))
  have hsh : (r.setWidth 16 <<< k).toNat = r.toNat <<< k := by
    rw [BitVec.toNat_shiftLeft, BitVec.toNat_setWidth, Nat.mod_eq_of_lt (a := r.toNat) (by omega),
      Nat.mod_eq_of_lt (by rw [Nat.shiftLeft_eq]; exact hs)]
  rw [show divStep t.toNat r.toNat k = t.toNat ^^^ t.toNat >>> (k + 8) % 2 * r.toNat <<< k from rfl,
    BitVec.getLsbD, testBit_eq_mod]
  rcases Nat.mod_two_eq_zero_or_one (t.toNat >>> (k + 8)) with h | h
  · simp [h]
  · simp [h, hsh]

/-- The model's remainder on numbers. (The model's steps keep to 16 bits; the last keeps the low 8.) -/
theorem toNat_reduce (p : Product) (r : Poly) : (reduce p r).toNat = reduceNat p.toNat r.toNat % 256 := by
  have step : ∀ (t : Product) (pos k : Nat), pos = k + 8 → k < 8 →
      (if t.getLsbD pos then t ^^^ (r.setWidth 16 <<< (pos - 8)) else t).toNat = divStep t.toNat r.toNat k := by
    rintro t _ k rfl hk
    rw [Nat.add_sub_cancel]
    exact toNat_divStep t r k hk
  rw [reduce]
  simp only [List.foldl]
  rw [BitVec.toNat_setWidth, step _ 8 0 rfl (by omega), step _ 9 1 rfl (by omega), step _ 10 2 rfl (by omega),
    step _ 11 3 rfl (by omega), step _ 12 4 rfl (by omega), step _ 13 5 rfl (by omega), step _ 14 6 rfl (by omega),
    step _ 15 7 rfl (by omega)]
  rfl

/-- The finder's test on numbers. -/
theorem inversePair_eq (r : Poly) (i j : Nat) (hi : i < 256) (hj : j < 256) :
    inversePair r i j = Nat.beq (reduceNat (clmulNat i j) r.toNat % 256) 1 := by
  rw [inversePair, Bool.eq_iff_iff, beq_iff_eq, Nat.beq_eq, ← BitVec.toNat_inj, toNat_reduce, toNat_clmul,
    BitVec.toNat_ofNat, BitVec.toNat_ofNat, Nat.mod_eq_of_lt (a := i) (by omega), Nat.mod_eq_of_lt (a := j) (by omega)]
  rfl

end Sys2Proof.Machine
end

