-- ==== Sys2Proof/Laws/PerInstr.lean ====
section
/-! SUPPORT. The family EncodingLegal, command by command: the operands fit, the word carries the command's opcode, and
the word is legal (30_encoding.md R92, R94, R101, R105). -/

namespace Sys2Proof.Laws.EncodingLegal

/-- The family's statement about a command. -/
def Statement (i : Instr) : Prop :=
  i.WellFormed ∧ fieldOp (encode i) = i.opcode ∧ legal (encode i) = true

theorem nop : Statement .nop := ⟨rfl, by decide, by decide⟩
theorem invgen : Statement .invgen := ⟨rfl, by decide, by decide⟩
theorem irrscan : Statement .irrscan := ⟨rfl, by decide, by decide⟩
theorem linan : Statement .linan := ⟨rfl, by decide, by decide⟩
theorem sort : Statement .sort := ⟨rfl, by decide, by decide⟩
theorem afftab (raw : Bool) : Statement (.afftab raw) := by cases raw <;> exact ⟨rfl, by decide, by decide⟩

/-- The low 4 bits of a word that ends in an opcode. -/
theorem fieldOp_append (hi : BitVec 28) (op : BitVec 4) : fieldOp (hi ++ op) = op := by
  apply BitVec.eq_of_getLsbD_eq
  intro i h
  rw [fieldOp, BitVec.getLsbD_extractLsb', decide_eq_true h, Bool.true_and, Nat.zero_add]
  exact (BitVec.getLsbD_append ..).trans (if_pos h)

/-- The must-be-zero bits of FMT-AB and FMT-P, of a word laid out as the format says. -/
theorem fmtAB_append (m : BitVec 16) (op : BitVec 4) : fmtAB (0#8 ++ m ++ 0#4 ++ op) = true := by
  have hi : (0#8 ++ m ++ 0#4 ++ op : Word).extractLsb' 24 8 = 0#8 := by
    apply BitVec.eq_of_getLsbD_eq
    intro i h
    rw [BitVec.getLsbD_extractLsb', decide_eq_true h, Bool.true_and]
    refine (BitVec.getLsbD_append ..).trans ?_
    rw [if_neg (by omega), BitVec.getLsbD_append, if_neg (by omega), BitVec.getLsbD_append, if_neg (by omega)]
    simp
  have lo : (0#8 ++ m ++ 0#4 ++ op : Word).extractLsb' 4 4 = 0#4 := by
    apply BitVec.eq_of_getLsbD_eq
    intro i h
    rw [BitVec.getLsbD_extractLsb', decide_eq_true h, Bool.true_and]
    refine (BitVec.getLsbD_append ..).trans ?_
    rw [if_neg (by omega), BitVec.getLsbD_append, if_pos (by omega)]
    simp
  rw [fmtAB, hi, lo]
  rfl

/-- A word of FMT-AB as one of FMT-P. -/
theorem wordAB_eq (op : BitVec 4) (a b : Byte) : wordAB op a b = 0#8 ++ (b ++ a) ++ 0#4 ++ op := by
  apply BitVec.eq_of_getLsbD_eq
  intro i h
  simp only [wordAB, BitVec.getLsbD_append]
  split_ifs <;> first | rfl | omega

theorem clmul (a b : Byte) : Statement (.clmul a b) := by
  have h : encode (.clmul a b) = 0#8 ++ (b ++ a) ++ 0#4 ++ 0x1#4 := wordAB_eq ..
  refine ⟨by simp [Instr.WellFormed, Instr.source, Source.wf, a.isLt, b.isLt], ?_, ?_⟩
  · rw [h, fieldOp_append]; rfl
  · rw [h, legal, fieldOp_append]; exact fmtAB_append ..

theorem gfmul (a b : Byte) : Statement (.gfmul a b) := by
  have h : encode (.gfmul a b) = 0#8 ++ (b ++ a) ++ 0#4 ++ 0x3#4 := wordAB_eq ..
  refine ⟨by simp [Instr.WellFormed, Instr.source, Source.wf, a.isLt, b.isLt], ?_, ?_⟩
  · rw [h, fieldOp_append]; rfl
  · rw [h, legal, fieldOp_append]; exact fmtAB_append ..

theorem pmod (p : Product) : Statement (.pmod p) := by
  refine ⟨by simp [Instr.WellFormed, Instr.source, Source.wf, p.isLt], fieldOp_append .., ?_⟩
  rw [encode, legal, fieldOp_append]
  exact fmtAB_append ..

theorem affine (x : Byte) : Statement (.affine x) := by
  refine ⟨by simp [Instr.WellFormed, Instr.source, Source.wf, x.isLt], fieldOp_append .., ?_⟩
  have hi : (0#16 ++ x ++ 0#4 ++ 0x6#4 : Word).extractLsb' 16 16 = 0#16 := by
    apply BitVec.eq_of_getLsbD_eq
    intro i h
    rw [BitVec.getLsbD_extractLsb', decide_eq_true h, Bool.true_and]
    refine (BitVec.getLsbD_append ..).trans ?_
    rw [if_neg (by omega), BitVec.getLsbD_append, if_neg (by omega), BitVec.getLsbD_append, if_neg (by omega)]
    simp
  have lo : (0#16 ++ x ++ 0#4 ++ 0x6#4 : Word).extractLsb' 4 4 = 0#4 := by
    apply BitVec.eq_of_getLsbD_eq
    intro i h
    rw [BitVec.getLsbD_extractLsb', decide_eq_true h, Bool.true_and]
    refine (BitVec.getLsbD_append ..).trans ?_
    rw [if_neg (by omega), BitVec.getLsbD_append, if_pos (by omega)]
    simp
  rw [encode, legal, fieldOp_append]
  change fmtX _ = true
  rw [fmtX, hi, lo]
  rfl

end Sys2Proof.Laws.EncodingLegal
end

