-- ==== Sys2Proof/Machine/Assembler.lean ====
section
/-! DEFINITION. The host-program notation as events of the host (30_encoding.md R105, R106). RD and WR are the
constructors `read` and `write` of HostEvent, POLL is `poll`. The conditional BNZ and labels are control flow of the
host, which the core never sees; of them the model has POLL alone (entry 14). -/

namespace Sys2Proof.Machine.Asm

/-- A command statement: WR CMD, its word. -/
def command (i : Instr) : List HostEvent := [.write 0x00000#17 (encode i)]

/-- POLL. -/
def poll : List HostEvent := [.poll]

/-- RUN cmd. -/
def run (i : Instr) : List HostEvent := command i ++ poll

/-- SETPOLY r. -/
def setPoly (r : Word) : List HostEvent := [.write 0x00010#17 r]

/-- CLRDONE. -/
def clrDone : List HostEvent := [.write 0x00004#17 0x2#32]

/-- CLRERR. -/
def clrErr : List HostEvent := [.write 0x00008#17 0xF#32]

/-- SBOXGEN r. -/
def sboxGen (r : Word) : List HostEvent := setPoly r ++ run .invgen ++ run (.afftab false)

/-- INVTABLE r. -/
def invTable (r : Word) : List HostEvent := setPoly r ++ run .invgen ++ run (.afftab true)

/-- FOR n = lo..hi: stmt. -/
def forLoop (lo hi : Nat) (stmt : Nat → List HostEvent) : List HostEvent :=
  (List.range' lo (hi + 1 - lo)).flatMap stmt

end Sys2Proof.Machine.Asm
end

