-- ==== Sys2Proof/Tests/Slice0.lean ====
section
/-! SUPPORT. The model's own tests: the assembler's refusals, words written out from the spec's encodings, one step of
each kind on small states, and for each statement with hypotheses a witness that meets them. Expected values come from
the spec's tables (95_test_vectors.md) or its rules. -/

namespace Sys2Proof.Tests
open Sys2Proof.Machine

/-! ## The assembler refuses an operand that does not fit (R105): one ill-formed statement a check -/

theorem test_clmul_a_too_wide : (Source.clmul 256 0).assemble = none := by decide
theorem test_clmul_b_too_wide : (Source.clmul 0 256).assemble = none := by decide
theorem test_gfmul_a_too_wide : (Source.gfmul 256 0).assemble = none := by decide
theorem test_gfmul_b_too_wide : (Source.gfmul 0 256).assemble = none := by decide
theorem test_pmod_p_too_wide : (Source.pmod 65536).assemble = none := by decide
theorem test_affine_x_too_wide : (Source.affine 256).assemble = none := by decide
theorem test_widest_operands : (Source.clmul 255 255).assemble = some (.clmul 0xFF#8 0xFF#8) := by decide

/-! ## Decoding: words from 95_test_vectors.md §2 and R92 -/

theorem test_decode_nop : decode 0x00000000#32 = .ok .nop := by decide
theorem test_decode_clmul : decode 0x00835701#32 = .ok (.clmul 0x57#8 0x83#8) := by decide
theorem test_decode_pmod : decode 0x00FFFF02#32 = .ok (.pmod 0xFFFF#16) := by decide
theorem test_decode_gfmul : decode 0x001CFF03#32 = .ok (.gfmul 0xFF#8 0x1C#8) := by decide
theorem test_decode_invgen : decode 0x00000004#32 = .ok .invgen := by decide
theorem test_decode_irrscan : decode 0x00000005#32 = .ok .irrscan := by decide
theorem test_decode_affine : decode 0x0000FF06#32 = .ok (.affine 0xFF#8) := by decide
theorem test_decode_afftab : decode 0x00000007#32 = .ok (.afftab false) := by decide
theorem test_decode_afftab_raw : decode 0x00000017#32 = .ok (.afftab true) := by decide
theorem test_decode_linan : decode 0x00000008#32 = .ok .linan := by decide
theorem test_decode_sort : decode 0x00000009#32 = .ok .sort := by decide

/-- The illegal words of 95_test_vectors.md §2.7 with a 1 in a must-be-zero bit. -/
theorem test_decode_must_be_zero :
    decode 0x00000018#32 = .error .mustBeZero ∧
    decode 0x00000108#32 = .error .mustBeZero ∧
    decode 0x00010006#32 = .error .mustBeZero ∧
    decode 0x00000027#32 = .error .mustBeZero ∧
    decode 0x01000001#32 = .error .mustBeZero ∧
    decode 0x000000F1#32 = .error .mustBeZero := by
  refine ⟨?_, ?_, ?_, ?_, ?_, ?_⟩ <;> decide

/-- The reserved opcodes of 95_test_vectors.md §2.7. -/
theorem test_decode_reserved :
    decode 0x0000000A#32 = .error .reservedOpcode ∧
    decode 0x0000000B#32 = .error .reservedOpcode ∧
    decode 0x0000000C#32 = .error .reservedOpcode ∧
    decode 0x0000000D#32 = .error .reservedOpcode ∧
    decode 0x0000000E#32 = .error .reservedOpcode ∧
    decode 0x0000000F#32 = .error .reservedOpcode ∧
    decode 0xFFFFFFFF#32 = .error .reservedOpcode := by
  refine ⟨?_, ?_, ?_, ?_, ?_, ?_, ?_⟩ <;> decide

theorem test_encode_gfmul : encode (.gfmul 0x53#8 0xCA#8) = 0x00CA5303#32 := by decide
theorem test_encode_affine : encode (.affine 0x53#8) = 0x00005306#32 := by decide

/-! ## Commands -/

/-- A property of the next state; false of a stop. -/
def next (o : Host.Outcome State Fault Refusal) (p : State → Bool) : Bool :=
  match o with
  | .next t => p t
  | .fault _ => false
  | .refused _ => false

/-- The state right after reset with a command word accepted and due. -/
def due (w : Nat) : State := State.reset.withFetchWord 32 w

/-- §2.1: 0xFF * 0xFF. -/
theorem test_clmul : next (step (due 0x00FFFF01)) (fun t => t.result == 0x5555#16 && t.done && !t.busy) = true := by
  decide
/-- §2.2: 0x3F7E mod 0x11B is 1. -/
theorem test_pmod_one : next (step (due 0x003F7E02)) (fun t => t.result == 0x0001#16 && t.eq1) = true := by decide
/-- §2.2: bit 15 of p is reduced too. -/
theorem test_pmod_top : next (step (due 0x00800002)) (fun t => t.result == 0x002F#16 && !t.eq1) = true := by decide
/-- §2.1: 0x57 * 0x83 under 0x11B. -/
theorem test_gfmul : next (step (due 0x00835703)) (fun t => t.result == 0x00C1#16 && !t.eq1) = true := by decide
/-- §2.1: 0x02 * 0x80 under 0x101, the POLY after a host write of 0x001. -/
theorem test_gfmul_poly101 :
    next (exec (.gfmul 0x02#8 0x80#8) { State.reset with poly := 0x01#8 }) (fun t => t.result == 0x0001#16 && t.eq1) =
      true := by decide
/-- §2.3. -/
theorem test_affine : next (step (due 0x00005306)) (fun t => t.result == 0x0074#16) = true := by decide
/-- §2.3: the constant. -/
theorem test_affine_zero : next (step (due 0x00000006)) (fun t => t.result == 0x0063#16) = true := by decide
theorem test_nop : next (step (due 0x00000000)) (fun t => t.done && !t.busy && t.result == 0x0000#16) = true := by
  decide
/-- §2.4: the first entry the finder resolves under 0x11B, and its partner. -/
theorem test_findInverse : findInverse 0x11B#9 0x02 = some 0x8D := by decide +kernel
/-- §2.4: 0x03 has no inverse under 0x101. -/
theorem test_findInverse_none : findInverse 0x101#9 0x03 = none := by decide +kernel
/-- R154: 128 candidates, the first and the last. -/
theorem test_candidates :
    candidates.length = 128 ∧ candidates.head? = some 0x101#9 ∧ candidates.getLast? = some 0x1FF#9 := by decide +kernel
/-- R42, R155: IRRSCAN leaves UNRES and INV alone. -/
theorem test_irrscan_scratch :
    next (exec .irrscan { State.reset with unres := 0x7F#8 }) (fun t => t.unres == 0x7F#8 && t.mem == []) = true := by
  decide +kernel
/-- §2.4: SBOX[0x53] = 0xED from INV[0x53] = 0xCA. -/
theorem test_afftab :
    next (exec (.afftab false) { State.reset with mem := [(0x153, 0xCA#8)] }) (fun t => readByte t 0x253 == 0xED#8) =
      true := by decide +kernel
/-- R172, raw. -/
theorem test_afftab_raw :
    next (exec (.afftab true) { State.reset with mem := [(0x153, 0xCA#8)] }) (fun t => readByte t 0x253 == 0xCA#8) =
      true := by decide +kernel
/-- §2.5, identity S-box: D(1, 1) = 128. -/
theorem test_deviation_identity : deviation ((List.range 256).map (BitVec.ofNat 8)) 1#8 1#8 = 128#8 := by decide +kernel
/-- §2.5, constant S-box 0xFF: D(3, 0) = 128. -/
theorem test_deviation_constant : deviation (List.replicate 256 0xFF#8) 3#8 0#8 = 128#8 := by decide +kernel
/-- R184. -/
theorem test_sortrow : sortrow [0x80#8, 0x03#8, 0xFF#8, 0x03#8, 0x00#8] = [0x00#8, 0x03#8, 0x03#8, 0x80#8, 0xFF#8] := by
  decide +kernel

/-! ## The port: rows of 95_test_vectors.md §2.8 -/

/-- The state right after reset with one event of the host to come. -/
def turn (e : HostEvent) : State := { State.reset with host := [e] }

/-- The same while a NOP executes that one event goes before. -/
def busyTurn (e : HostEvent) : State := { State.reset with host := [e], busy := true, wait := 1 }

theorem test_read_poly : next (step (turn (.read 0x010#17))) (fun t => t.rdata == 0x0000011B#32) = true := by decide
/-- Row 5: an unmapped read gives 0 and sets ADDR. -/
theorem test_read_unmapped :
    next (step (turn (.read 0x028#17))) (fun t => t.rdata == 0#32 && t.err == 0x4#4 && statusWord t == 0x10#32) = true := by
  decide
/-- Row 7: POLY keeps bits 7:0 and reads bit 8 as 1. -/
theorem test_write_poly :
    next (step (turn (.write 0x010#17 0xFFFFF0FF#32))) (fun t => regWord t .poly == 0x000001FF#32) = true := by decide
/-- Row 11: a misaligned write is dropped. -/
theorem test_write_misaligned :
    next (step (turn (.write 0x202#17 0#32))) (fun t => t.err == 0x4#4 && t.mem == [] && t.sbval == 0#256) = true := by
  decide
/-- Row 14: a word of SBOX, its lanes and its valid bits. -/
theorem test_write_sbox :
    next (step (turn (.write 0x200#17 0x03020100#32)))
      (fun t => t.mem == [(0x200, 0x00#8), (0x201, 0x01#8), (0x202, 0x02#8), (0x203, 0x03#8)] && t.sbval == 0xF#256 &&
        idleWord t 0x200#17 == 0x03020100#32 && validWord t == 0#32) = true := by decide
/-- Row 15: an illegal command word with both irq sources enabled. -/
theorem test_illegal_command :
    next (step { turn (.write 0x000#17 0x0000000C#32) with ie := 3#2 })
      (fun t => t.err == 0x1#4 && statusWord t == 0x30#32 && irq t && !t.busy) = true := by decide
/-- E15: LINAN right after reset is refused with INCOMPL. -/
theorem test_linan_incomplete :
    next (step (turn (.write 0x000#17 0x00000008#32))) (fun t => t.err == 0x8#4 && !t.busy) = true := by decide
/-- P6, outcome A: a write to SBOX that meets a busy core. -/
theorem test_busy_write :
    next (step (busyTurn (.write 0x200#17 0x11223344#32))) (fun t => t.err == 0x2#4 && t.mem == [] && t.busy) = true := by
  decide
/-- R261: reset while busy. -/
theorem test_reset_abandons :
    next (step (busyTurn .reset)) (fun t => !t.busy && !t.done && t.resets == 1) = true := by decide
/-- R106: RUN NOP is the command's word and a poll. -/
theorem test_run_nop : Asm.run .nop = [.write 0x00000#17 0x00000000#32, .poll] := by decide
/-- R106: SBOXGEN 0x11B. -/
theorem test_sboxGen : Asm.sboxGen 0x11B#32 =
    [.write 0x00010#17 0x11B#32, .write 0x00000#17 0x4#32, .poll, .write 0x00000#17 0x7#32, .poll] := by decide

/-! ## Witnesses: for each statement with hypotheses, a state and operands that meet them together -/

theorem packed {a : Addr} (h : a.toNat % 4 = 0 ∧ ((0x00100 ≤ a.toNat ∧ a.toNat < 0x00300) ∨ 0x10000 ≤ a.toNat)) :
    PackedWord a := h
theorem hostTurn_turn (e : HostEvent) : (turn e).HostTurn e [] := ⟨rfl, rfl⟩
theorem hostTurn_busyTurn (e : HostEvent) : (busyTurn e).HostTurn e [] := ⟨rfl, rfl⟩
theorem coreTurn_due_nop : (due 0).CoreTurn .nop := ⟨rfl, rfl⟩
theorem not_reset_of_host {s : State} (h : s.host = []) (rest : List HostEvent) : ¬ s.HostTurn .reset rest := by
  rintro ⟨hh, -⟩
  rw [h] at hh
  cases hh

theorem witness_DecodeOfEncode : (Instr.clmul 0x53#8 0xCA#8).WellFormed := by decide
theorem witness_EncodeOfDecode : decode 0x00CA5301#32 = .ok (.clmul 0x53#8 0xCA#8) := by decide
theorem witness_OpcodeTableRows : decode 0x00CA5301#32 = .ok (.clmul 0x53#8 0xCA#8) ∧
    0x00CA5301#32 &&& (Instr.clmul 0x53#8 0xCA#8).tableMask = (Instr.clmul 0x53#8 0xCA#8).tableMatch := by decide
theorem witness_StepRunsLatchedCommand : (due 0).CoreTurn .nop ∧ exec .nop (due 0) = .next (due 0) ∧
    Instr.nop.WellFormed := ⟨coreTurn_due_nop, rfl, rfl⟩
theorem witness_StepRunsHostEvent : (turn .poll).HostTurn .poll [] ∧ State.reset.busy = false ∧ State.reset.host = [] :=
  ⟨hostTurn_turn _, rfl, rfl⟩
theorem witness_CompletionEndsHandshake : (due 0).CoreTurn .nop := coreTurn_due_nop

/-- A state of the invariant in which a command executes. -/
theorem inv_due_nop : (due 0).Inv := by
  constructor <;> simp [due, State.withFetchWord, latch, State.reset, tableWord, Memory.wf, fieldOp, legal, fmtN]

theorem witness_InvariantStepNeverStops : (due 0).Inv := inv_due_nop
theorem witness_StepKeepsInvariant : (due 0).Inv ∧ step (due 0) = .next (finish (due 0)) := ⟨inv_due_nop, rfl⟩
theorem witness_PmodRemainder :
    0x3F7E#16 = ((0x3F#8).setWidth 16 <<< 8) ^^^ clmul 0x3F#8 State.reset.poly ^^^ (0x9B#8).setWidth 16 ∨
      0x011A#16 = ((0x01#8).setWidth 16 <<< 8) ^^^ clmul 0x01#8 State.reset.poly ^^^ (0x01#8).setWidth 16 := by decide
theorem witness_ReduceIsLinear : (0x00FF#16).toNat < 0x100 := by decide
theorem witness_InvgenFrame : Memory.wf State.reset.mem := by decide

/-- INV under POLY = 0x11B (95_test_vectors.md §2.4). -/
def specInverses : List Byte :=
  [0x00, 0x01, 0x8D, 0xF6, 0xCB, 0x52, 0x7B, 0xD1, 0xE8, 0x4F, 0x29, 0xC0, 0xB0, 0xE1, 0xE5, 0xC7] ++
  [0x74, 0xB4, 0xAA, 0x4B, 0x99, 0x2B, 0x60, 0x5F, 0x58, 0x3F, 0xFD, 0xCC, 0xFF, 0x40, 0xEE, 0xB2] ++
  [0x3A, 0x6E, 0x5A, 0xF1, 0x55, 0x4D, 0xA8, 0xC9, 0xC1, 0x0A, 0x98, 0x15, 0x30, 0x44, 0xA2, 0xC2] ++
  [0x2C, 0x45, 0x92, 0x6C, 0xF3, 0x39, 0x66, 0x42, 0xF2, 0x35, 0x20, 0x6F, 0x77, 0xBB, 0x59, 0x19] ++
  [0x1D, 0xFE, 0x37, 0x67, 0x2D, 0x31, 0xF5, 0x69, 0xA7, 0x64, 0xAB, 0x13, 0x54, 0x25, 0xE9, 0x09] ++
  [0xED, 0x5C, 0x05, 0xCA, 0x4C, 0x24, 0x87, 0xBF, 0x18, 0x3E, 0x22, 0xF0, 0x51, 0xEC, 0x61, 0x17] ++
  [0x16, 0x5E, 0xAF, 0xD3, 0x49, 0xA6, 0x36, 0x43, 0xF4, 0x47, 0x91, 0xDF, 0x33, 0x93, 0x21, 0x3B] ++
  [0x79, 0xB7, 0x97, 0x85, 0x10, 0xB5, 0xBA, 0x3C, 0xB6, 0x70, 0xD0, 0x06, 0xA1, 0xFA, 0x81, 0x82] ++
  [0x83, 0x7E, 0x7F, 0x80, 0x96, 0x73, 0xBE, 0x56, 0x9B, 0x9E, 0x95, 0xD9, 0xF7, 0x02, 0xB9, 0xA4] ++
  [0xDE, 0x6A, 0x32, 0x6D, 0xD8, 0x8A, 0x84, 0x72, 0x2A, 0x14, 0x9F, 0x88, 0xF9, 0xDC, 0x89, 0x9A] ++
  [0xFB, 0x7C, 0x2E, 0xC3, 0x8F, 0xB8, 0x65, 0x48, 0x26, 0xC8, 0x12, 0x4A, 0xCE, 0xE7, 0xD2, 0x62] ++
  [0x0C, 0xE0, 0x1F, 0xEF, 0x11, 0x75, 0x78, 0x71, 0xA5, 0x8E, 0x76, 0x3D, 0xBD, 0xBC, 0x86, 0x57] ++
  [0x0B, 0x28, 0x2F, 0xA3, 0xDA, 0xD4, 0xE4, 0x0F, 0xA9, 0x27, 0x53, 0x04, 0x1B, 0xFC, 0xAC, 0xE6] ++
  [0x7A, 0x07, 0xAE, 0x63, 0xC5, 0xDB, 0xE2, 0xEA, 0x94, 0x8B, 0xC4, 0xD5, 0x9D, 0xF8, 0x90, 0x6B] ++
  [0xB1, 0x0D, 0xD6, 0xEB, 0xC6, 0x0E, 0xCF, 0xAD, 0x08, 0x4E, 0xD7, 0xE3, 0x5D, 0x50, 0x1E, 0xB3] ++
  [0x5B, 0x23, 0x38, 0x34, 0x68, 0x46, 0x03, 0x8C, 0xDD, 0x9C, 0x7D, 0xA0, 0xCD, 0x1A, 0x41, 0x1C]

/-- Each entry of the spec's table is an inverse under 0x11B, by the model's own product. -/
theorem test_specInverses : specInverses.length = 256 ∧ ∀ x : Fin 256, 2 ≤ x.val →
    ∃ y, specInverses[x.val]? = some y ∧ reduce (clmul (BitVec.ofFin x) y) 0x11B#9 = 0x01#8 := by
  have h : ∀ x : Fin 256, 2 ≤ x.val →
      reduce (clmul (BitVec.ofFin x) (specInverses.getD x.val 0#8)) 0x11B#9 = 0x01#8 := by decide +kernel
  have hl : specInverses.length = 256 := by decide +kernel
  refine ⟨hl, fun x hx => ⟨specInverses.getD x.val 0#8, ?_, h x hx⟩⟩
  have hx : x.val < specInverses.length := by rw [hl]; exact x.isLt
  rw [List.getD_eq_getElem _ _ hx, List.getElem?_eq_getElem hx]

theorem witness_InverseTableIsUnique : ∃ t, exec .invgen State.reset = .next t ∧ specInverses.length = 256 ∧
    specInverses[0]? = some 0x00#8 ∧ specInverses[1]? = some 0x01#8 ∧
    (∀ x : Byte, 2 ≤ x.toNat → ∃ y, specInverses[x.toNat]? = some y ∧
      (y = 0x00#8 ∧ ¬ Invertible (polyReg State.reset) x ∨ reduce (clmul x y) (polyReg State.reset) = 0x01#8)) := by
  refine ⟨_, exec_invgen _, test_specInverses.1, rfl, rfl, fun x hx => ?_⟩
  obtain ⟨y, hy, h⟩ := test_specInverses.2 x.toFin hx
  exact ⟨y, hy, .inr h⟩

theorem witness_IrrscanListsFullInverses : Memory.wf State.reset.irr := by decide
theorem witness_AfftabFillsSbox : Memory.wf State.reset.mem := by decide
theorem witness_AesSboxFromInvgenAfftab : polyReg State.reset = 0x11B#9 := by decide

/-- A state whose SBOX holds `f`. -/
def withSbox (f : Nat → Byte) : State :=
  { State.reset with mem := Memory.writeRange [] 0x200 ((List.range 256).map f) }

theorem readByte_withSbox (f : Nat → Byte) (k : Nat) (hk : k < 256) : readByte (withSbox f) (0x200 + k) = f k := by
  rw [readByte_of_written (s := State.reset) (t := withSbox f) (a := 0x200) rfl (i := k) (by simpa using hk)]
  simp

theorem witness_LinanDeviations : (1 ≤ 255 ∧ 255 < 256 ∧ 0 < 256) ∧ Memory.wf State.reset.mem := by decide
theorem witness_LinanDeviationProperties :
    (∀ k l, k < 256 → l < 256 → readByte (withSbox (BitVec.ofNat 8)) (0x200 + k) =
      readByte (withSbox (BitVec.ofNat 8)) (0x200 + l) → k = l) ∧
    (∀ k < 256, readByte (withSbox fun k => BitVec.ofNat 8 k &&& 0xFE#8) (0x200 + k) = BitVec.ofNat 8 k &&& 0xFE#8) := by
  refine ⟨fun k l hk hl h => ?_, fun k hk => readByte_withSbox _ k hk⟩
  rw [readByte_withSbox _ k hk, readByte_withSbox _ l hl, ← BitVec.toNat_inj, BitVec.toNat_ofNat, BitVec.toNat_ofNat] at h
  omega
theorem witness_LinanIdentityAndConstant :
    (∀ k < 256, readByte (withSbox (BitVec.ofNat 8)) (0x200 + k) = BitVec.ofNat 8 k) ∧
    (∀ k < 256, readByte (withSbox fun _ => 0xFF#8) (0x200 + k) = 0xFF#8) :=
  ⟨fun k hk => readByte_withSbox _ k hk, fun k hk => readByte_withSbox _ k hk⟩
theorem witness_SortOrdersRows : (1 ≤ 1 ∧ 1 < 256 ∧ 254 < 255) ∧ Memory.wf State.reset.mem := by decide

/-- A state whose DEV row 1 begins with `v`. -/
def withRow (v : List Byte) : State := { State.reset with mem := Memory.writeRange [] 0x10100 v }

theorem readByte_withRow (v : List Byte) {j : Nat} (hj : j < v.length) : readByte (withRow v) (0x10100 + j) = v[j] :=
  readByte_of_written (s := State.reset) (t := withRow v) (a := 0x10100) rfl hj

theorem row_withRow (v : List Byte) (h : v.length = 256) : (List.range 256).map (devCell (withRow v) 1) = v := by
  refine List.ext_getElem (by rw [List.length_map, List.length_range, h]) fun j _ hj => ?_
  rw [List.getElem_map, List.getElem_range, devCell, devAddr, show devBase + 256 * 1 + j = 0x10100 + j by rw [devBase],
    readByte_withRow v hj]

theorem witness_SortIsUniqueAndIdempotent : ∃ v : List Byte, ∃ t, exec .sort (withRow v) = .next t ∧
    v.Pairwise (fun x y : Byte => x.toNat ≤ y.toNat) ∧ v.Perm ((List.range 256).map (devCell (withRow v) 1)) := by
  obtain ⟨v, hl, hp⟩ : ∃ v : List Byte, v.length = 256 ∧ v.Pairwise (fun x y : Byte => x.toNat ≤ y.toNat) :=
    ⟨List.replicate 256 0#8, List.length_replicate, List.pairwise_replicate.2 (.inr le_rfl)⟩
  exact ⟨v, _, exec_sort _, hp, by rw [row_withRow v hl]⟩

theorem witness_ResultsHaveTheirWriters :
    step (due 0) = .next (finish (due 0)) ∧ (∀ rest, ¬ (due 0).HostTurn .reset rest) ∧
    (∀ i, (due 0).CoreTurn i → i.opcode ≠ 0x1#4 ∧ i.opcode ≠ 0x2#4 ∧ i.opcode ≠ 0x3#4 ∧ i.opcode ≠ 0x4#4 ∧
      i.opcode ≠ 0x5#4 ∧ i.opcode ≠ 0x6#4 ∧ i.opcode ≠ 0x9#4) ∧
    (∀ w rest, (due 0).busy = false → ¬ (due 0).HostTurn (.write 0x00010#17 w) rest) := by
  refine ⟨rfl, not_reset_of_host rfl, fun i hi => ?_, nofun⟩
  have : Except.ok Instr.nop = Except.ok i := coreTurn_due_nop.2.symm.trans hi.2
  cases this
  decide
theorem witness_ExecutingCommandIsAlone : (busyTurn .poll).busy = true ∧ (busyTurn .poll).HostTurn .poll [] ∧
    HostEvent.poll ≠ .reset := ⟨rfl, hostTurn_busyTurn _, nofun⟩
theorem witness_ErrorBitsAreSticky :
    (∃ t, step { turn (.write 0x008#17 0x1#32) with err := 0x1#4 } = .next t ∧ t.err.getLsbD 0 = false) ∧
    (∃ t, step { turn .reset with err := 0x8#4 } = .next t ∧ t.err.getLsbD 3 = false) :=
  ⟨⟨_, rfl, by decide⟩, ⟨_, rfl, by decide⟩⟩
theorem witness_ErrorsAreSingleAndPrecise :
    (∃ t, step (turn (.read 0x001#17)) = .next t ∧ (turn (.read 0x001#17)).err.getLsbD 2 = false ∧
      t.err.getLsbD 2 = true) ∧
    (∃ t, step (turn (.write 0x000#17 0xF#32)) = .next t ∧ (turn (.write 0x000#17 0xF#32)).err.getLsbD 0 = false ∧
      t.err.getLsbD 0 = true) :=
  ⟨⟨_, rfl, rfl, by decide⟩, ⟨_, rfl, rfl, by decide⟩⟩
theorem witness_ValidBitsOnlyResetClears : step { due 0 with invval := 1#256, sbval := 1#256 } =
      .next (finish { due 0 with invval := 1#256, sbval := 1#256 }) ∧
    (∀ rest, ¬ ({ due 0 with invval := 1#256, sbval := 1#256 } : State).HostTurn .reset rest) ∧
    (1#256).getLsbD 0 = true := ⟨rfl, not_reset_of_host rfl, by decide +kernel⟩
/-- A poll keeps the reset behind it from coming first; a write goes first and is none; and with nothing to come. -/
theorem witness_AcceptedCommandCompletes :
    ∀ s ∈ [{ busyTurn .poll with host := [.poll, .reset], wait := 2 }, busyTurn (.write 0x00004#17 0x2#32), due 0],
      s.busy = true ∧ legal s.lcmd = true ∧ .reset ∉ (s.host.take s.wait).takeWhile (· ≠ .poll) := by
  repeat refine List.forall_mem_cons.2 ⟨⟨rfl, by decide, by decide⟩, ?_⟩
  exact List.forall_mem_nil _
theorem witness_PollEndsIdle : (busyTurn .poll).host = .poll :: [] ∧
    ((busyTurn .poll).busy = true → legal (busyTurn .poll).lcmd = true) := ⟨rfl, fun _ => by decide⟩
theorem witness_StatusBits : (turn (.read 0x00004#17)).HostTurn (.read 0x00004#17) [] ∧ 6 ≤ 6 := ⟨hostTurn_turn _, le_rfl⟩
/-- The offsets of the nine clauses: each is aligned and below 0x028. -/
theorem witness_RegisterReads : ∀ a ∈ [0x000#17, 0x008#17, 0x00C#17, 0x010#17, 0x014#17, 0x018#17, 0x01C#17, 0x020#17,
    0x024#17], (turn (.read a)).busy = false ∧ (turn (.read a)).HostTurn (.read a) [] ∧ a.toNat % 4 = 0 ∧
      a.toNat < 0x028 := by
  repeat refine List.forall_mem_cons.2 ⟨⟨rfl, hostTurn_turn _, by decide⟩, ?_⟩
  exact List.forall_mem_nil _
/-- The ends of INV, SBOX, DEV and IRR. -/
theorem witness_ArrayReads :
    (∀ a ∈ [0x00100#17, 0x001FC#17, 0x00200#17, 0x002FC#17, 0x10000#17, 0x1FFFC#17],
      (turn (.read a)).busy = false ∧ (turn (.read a)).HostTurn (.read a) [] ∧ PackedWord a) ∧
    (0x00400#17).toNat = 0x400 + 4 * 0 ∧ (0x005FC#17).toNat = 0x400 + 4 * 127 := by
  refine ⟨?_, by decide, by decide⟩
  repeat refine List.forall_mem_cons.2 ⟨⟨rfl, hostTurn_turn _, packed (by decide)⟩, ?_⟩
  exact List.forall_mem_nil _
theorem witness_MisalignedAccess : (0x00001#17).toNat % 4 ≠ 0 ∧ (0x1FFFF#17).toNat % 4 ≠ 0 ∧
    (turn (.read 0x00001#17)).HostTurn (.read 0x00001#17) [] ∧
    (busyTurn (.write 0x1FFFF#17 0#32)).HostTurn (.write 0x1FFFF#17 0#32) [] :=
  ⟨by decide, by decide, hostTurn_turn _, hostTurn_busyTurn _⟩
/-- The ends of the three unmapped ranges. -/
theorem witness_UnmappedAccess : ∀ a ∈ [0x00028#17, 0x000FC#17, 0x00300#17, 0x003FC#17, 0x00600#17, 0x0FFFC#17],
    a.toNat % 4 = 0 ∧ (0x00028 ≤ a.toNat ∧ a.toNat ≤ 0x000FC ∨ 0x00300 ≤ a.toNat ∧ a.toNat ≤ 0x003FF ∨
      0x00600 ≤ a.toNat ∧ a.toNat ≤ 0x0FFFF) ∧ (turn (.read a)).HostTurn (.read a) [] ∧
      (turn (.write a 0#32)).HostTurn (.write a 0#32) [] := by
  repeat refine List.forall_mem_cons.2 ⟨⟨by decide, by decide, hostTurn_turn _, hostTurn_turn _⟩, ?_⟩
  exact List.forall_mem_nil _
/-- The four writable registers, and the ends of the read-only ranges. -/
theorem witness_RegisterWrites :
    (∀ a ∈ [0x00004#17, 0x00008#17, 0x0000C#17, 0x00010#17, 0x00014#17, 0x00024#17, 0x00400#17, 0x005FC#17],
      (turn (.write a 0x2#32)).HostTurn (.write a 0x2#32) [] ∧ (turn (.write a 0x2#32)).busy = false) ∧
    (∀ a ∈ [0x00014#17, 0x00024#17, 0x00400#17, 0x005FC#17], a.toNat % 4 = 0 ∧
      (0x00014 ≤ a.toNat ∧ a.toNat ≤ 0x00024 ∨ 0x00400 ≤ a.toNat ∧ a.toNat ≤ 0x005FF)) := by
  refine ⟨fun _ _ => ⟨hostTurn_turn _, rfl⟩, ?_⟩
  repeat refine List.forall_mem_cons.2 ⟨by decide, ?_⟩
  exact List.forall_mem_nil _
theorem witness_PolyBitEightIsHardwired :
    ({ State.reset with host := [.write 0x00010#17 0#32, .read 0x00010#17] } : State).busy = false ∧
    ({ State.reset with host := [.write 0x00010#17 0#32, .read 0x00010#17] } : State).host =
      .write 0x00010#17 0#32 :: .read 0x00010#17 :: [] := ⟨rfl, rfl⟩
/-- The ends of INV, SBOX and DEV. -/
theorem witness_ArrayWrites : (∀ a ∈ [0x00100#17, 0x001FC#17, 0x00200#17, 0x002FC#17, 0x10000#17, 0x1FFFC#17],
    (turn (.write a 0#32)).busy = false ∧ PackedWord a ∧ (turn (.write a 0#32)).HostTurn (.write a 0#32) []) ∧
    Memory.wf State.reset.mem := by
  refine ⟨?_, by decide⟩
  repeat refine List.forall_mem_cons.2 ⟨⟨rfl, packed (by decide), hostTurn_turn _⟩, ?_⟩
  exact List.forall_mem_nil _
theorem witness_ArrayRoundTrip :
    ({ State.reset with host := [.write 0x1FFFC#17 7#32, .read 0x1FFFC#17] } : State).busy = false ∧
    PackedWord 0x1FFFC#17 ∧
    ({ State.reset with host := [.write 0x1FFFC#17 7#32, .read 0x1FFFC#17] } : State).host =
      .write 0x1FFFC#17 7#32 :: .read 0x1FFFC#17 :: [] := ⟨rfl, packed (by decide), rfl⟩
/-- Written cells: the last four of DEV, read twice. -/
theorem witness_ReadsAreIdempotent :
    ∃ s : State, s.busy = false ∧ badAddress (locate 0x1FFFC#17) = false ∧
      s.host = .read 0x1FFFC#17 :: .read 0x1FFFC#17 :: [] ∧
      s.mem = [(0x1FFFC, 7#8), (0x1FFFD, 0#8), (0x1FFFE, 0#8), (0x1FFFF, 0#8)] :=
  ⟨{ State.reset with
      host := [.read 0x1FFFC#17, .read 0x1FFFC#17]
      mem := [(0x1FFFC, 7#8), (0x1FFFD, 0#8), (0x1FFFE, 0#8), (0x1FFFF, 0#8)] }, rfl, by decide, rfl, rfl⟩
theorem witness_BusyWritesAreDropped : (∀ a : Addr, (busyTurn (.write a 0#32)).busy = true ∧
    (busyTurn (.write a 0#32)).HostTurn (.write a 0#32) []) ∧ PackedWord 0x002FC#17 :=
  ⟨fun _ => ⟨rfl, hostTurn_busyTurn _⟩, packed (by decide)⟩
/-- The ends of each clause's range. -/
theorem witness_BusyReads : (∀ a : Addr, (busyTurn (.read a)).busy = true ∧ (busyTurn (.read a)).HostTurn (.read a) []) ∧
    (∀ a ∈ [0x00014#17, 0x00024#17, 0x00400#17, 0x005FC#17], a.toNat % 4 = 0 ∧
      (0x00014 ≤ a.toNat ∧ a.toNat ≤ 0x00024 ∨ 0x00400 ≤ a.toNat ∧ a.toNat ≤ 0x005FF)) ∧ PackedWord 0x10000#17 ∧
    (∀ a ∈ [0x00001#17, 0x1FFFF#17, 0x00028#17, 0x000FC#17, 0x00300#17, 0x003FC#17, 0x00600#17, 0x0FFFC#17],
      a.toNat % 4 ≠ 0 ∨ 0x00028 ≤ a.toNat ∧ a.toNat ≤ 0x000FF ∨ 0x00300 ≤ a.toNat ∧ a.toNat ≤ 0x003FF ∨
        0x00600 ≤ a.toNat ∧ a.toNat ≤ 0x0FFFF) := by
  refine ⟨fun _ => ⟨rfl, hostTurn_busyTurn _⟩, ?_, packed (by decide), ?_⟩ <;>
    (repeat refine List.forall_mem_cons.2 ⟨by decide, ?_⟩) <;> exact List.forall_mem_nil _
/-- Each branch of the issue: busy; idle with an illegal word; AFFTAB and LINAN with incomplete tables; accepted. -/
theorem witness_CommandIssue :
    ((busyTurn (.write 0x00000#17 0x0#32)).HostTurn (.write 0x00000#17 0x0#32) [] ∧
      (busyTurn (.write 0x00000#17 0x0#32)).busy = true) ∧
    (∀ w : Word, (turn (.write 0x00000#17 w)).HostTurn (.write 0x00000#17 w) [] ∧
      (turn (.write 0x00000#17 w)).busy = false ∧ (turn (.write 0x00000#17 w)).invval ≠ BitVec.allOnes 256 ∧
      (turn (.write 0x00000#17 w)).sbval ≠ BitVec.allOnes 256) ∧
    legal 0xA#32 = false ∧ (legal 0x17#32 = true ∧ (0x17#32).toNat % 16 = 7) ∧
    (legal 0x8#32 = true ∧ (0x8#32).toNat % 16 = 8) ∧
    (legal 0x0#32 = true ∧ (0x0#32).toNat % 16 ≠ 7 ∧ (0x0#32).toNat % 16 ≠ 8) := by
  refine ⟨⟨hostTurn_busyTurn _, rfl⟩, fun w => ⟨hostTurn_turn _, rfl, ?_, ?_⟩, by decide⟩ <;>
    exact fun h => absurd h (by decide : (0#256) ≠ BitVec.allOnes 256)
theorem witness_ResetInput : (busyTurn .reset).HostTurn .reset [] := hostTurn_busyTurn _

end Sys2Proof.Tests
end

/-! PROOFS. The address map and the accesses of the port, one lemma an operation: which address a register has, what a
read and a write of a located word do, and what a step is on a turn of the host. -/

namespace Sys2Proof.Machine

variable {s t : State} {a : Addr} {w : Word} {rest : List HostEvent}

/-! ## The address of a register (10_state.md R20) -/

/-- The byte address of a register. -/
def Reg.offset : Reg → Nat
  | .cmd => 0x000
  | .status => 0x004
  | .err => 0x008
  | .ie => 0x00C
  | .poly => 0x010
  | .result => 0x014
  | .unres => 0x018
  | .irrcnt => 0x01C
  | .gmax => 0x020
  | .valid => 0x024

theorem regAt_offset (r : Reg) : regAt r.offset = .reg r := by cases r <;> rfl

theorem eq_offset_of_regAt {n : Nat} {r : Reg} (h : regAt n = .reg r) : n = r.offset := by
  unfold regAt at h
  split at h <;> cases h <;> rfl

theorem Reg.offset_bounds (r : Reg) : r.offset % 4 = 0 ∧ r.offset < 0x028 := by cases r <;> decide

theorem locate_eq_regAt (h : a.toNat % 4 = 0) (h' : a.toNat < 0x100) : locate a = regAt a.toNat := by
  rw [locate, if_neg (by omega), if_pos h']

/-- An address leads to a register exactly when it is the register's. -/
theorem locate_eq_reg_iff {r : Reg} : locate a = .reg r ↔ a.toNat = r.offset := by
  constructor
  · intro h
    rw [locate] at h
    split_ifs at h
    exact eq_offset_of_regAt h
  · intro h
    obtain ⟨h4, h28⟩ := r.offset_bounds
    rw [locate_eq_regAt (by omega) (by omega), h, regAt_offset]

/-- Every aligned address below 0x028 is a register's. -/
theorem exists_locate_eq_reg (h4 : a.toNat % 4 = 0) (h28 : a.toNat < 0x028) : ∃ r, locate a = .reg r := by
  simp only [locate_eq_reg_iff]
  have : a.toNat = 0x000 ∨ a.toNat = 0x004 ∨ a.toNat = 0x008 ∨ a.toNat = 0x00C ∨ a.toNat = 0x010 ∨ a.toNat = 0x014 ∨
    a.toNat = 0x018 ∨ a.toNat = 0x01C ∨ a.toNat = 0x020 ∨ a.toNat = 0x024 := by omega
  rcases this with h | h | h | h | h | h | h | h | h | h
  exacts [⟨.cmd, h⟩, ⟨.status, h⟩, ⟨.err, h⟩, ⟨.ie, h⟩, ⟨.poly, h⟩, ⟨.result, h⟩, ⟨.unres, h⟩, ⟨.irrcnt, h⟩,
    ⟨.gmax, h⟩, ⟨.valid, h⟩]

/-- A word of a packed array lies in INV, in SBOX or in DEV (20_memory.md R64). -/
theorem PackedWord.locate_cases (h : PackedWord a) :
    (locate a = .inv ∧ 0x00100 ≤ a.toNat ∧ a.toNat + 4 ≤ 0x00200) ∨
    (locate a = .sbox ∧ 0x00200 ≤ a.toNat ∧ a.toNat + 4 ≤ 0x00300) ∨
    (locate a = .dev ∧ 0x10000 ≤ a.toNat ∧ a.toNat + 4 ≤ 0x20000) := by
  obtain ⟨h4, ⟨hlo, hhi⟩ | hlo⟩ := h
  · by_cases h2 : a.toNat < 0x00200
    · exact .inl ⟨locate_inv a h4 hlo h2, by omega⟩
    · exact .inr (.inl ⟨locate_sbox a h4 (by omega) hhi, by omega⟩)
  · exact .inr (.inr ⟨locate_dev a h4 hlo, by omega⟩)

theorem packedWord_iff : PackedWord a ↔ locate a = .inv ∨ locate a = .sbox ∨ locate a = .dev := by
  obtain ⟨inv, sbox, -, dev⟩ := locate_array a
  constructor
  · intro h
    rcases h.locate_cases with ⟨h, -⟩ | ⟨h, -⟩ | ⟨h, -⟩
    exacts [.inl h, .inr (.inl h), .inr (.inr h)]
  · rintro (h | h | h)
    · obtain ⟨h4, hlo, hhi⟩ := inv h
      exact ⟨h4, .inl ⟨hlo, by omega⟩⟩
    · obtain ⟨h4, hlo, hhi⟩ := sbox h
      exact ⟨h4, .inl ⟨by omega, hhi⟩⟩
    · obtain ⟨h4, hlo, -⟩ := dev h
      exact ⟨h4, .inr hlo⟩

/-! ## Reads -/

theorem idleWord_of_reg {r : Reg} (h : locate a = .reg r) : idleWord s a = regWord s r := by rw [idleWord, h]

theorem idleWord_of_packed (h : PackedWord a) : idleWord s a = readWord s a.toNat := by
  rcases packedWord_iff.1 h with h | h | h <;> rw [idleWord, h]

theorem badAddress_of_packed (h : PackedWord a) : badAddress (locate a) = false := by
  rcases packedWord_iff.1 h with h | h | h <;> rw [h] <;> rfl

theorem idleWord_of_irr (h : locate a = .irr) :
    idleWord s a = 0#23 ++ readIrr s ((a.toNat - irrBase) / 4) := by rw [idleWord, h]

theorem regWord_popped (r : Reg) : regWord (s.popped rest) r = regWord s r := by cases r <;> rfl

/-- The words that reads give do not see the host's list. -/
@[simp] theorem idleWord_popped : idleWord (s.popped rest) a = idleWord s a := by
  unfold idleWord
  cases locate a with
  | reg r => exact regWord_popped r
  | _ => rfl

/-- A read of a mapped word that is not hidden gives the word and changes nothing (20_memory.md R69). -/
theorem hostRead_eq_idleWord (hb : badAddress (locate a) = false)
    (hv : s.busy = false ∨ hiddenWhileBusy (locate a) = false) : hostRead a s = { s with rdata := idleWord s a } := by
  rw [hostRead, hb, if_neg (by simp), if_neg (by rcases hv with h | h <;> simp [h])]

/-- The step of such a read. -/
theorem step_read (ht : s.HostTurn (.read a) rest) (hb : badAddress (locate a) = false)
    (hv : s.busy = false ∨ hiddenWhileBusy (locate a) = false) :
    step s = .next { s with rdata := idleWord s a, host := rest, wait := s.wait - 1 } := by
  rw [step_of_hostTurn ht, hostEvent, hostRead_eq_idleWord (s := s.popped rest) hb hv, idleWord_popped]
  rfl

/-! ## Writes -/

/-- The step of a write. -/
theorem step_write (ht : s.HostTurn (.write a w) rest) : step s = .next (hostWrite a w (s.popped rest)) :=
  step_of_hostTurn ht

theorem hostWrite_of_reg {r : Reg} (h : locate a = .reg r) : hostWrite a w s = writeReg r w s := by
  rw [hostWrite, h]

theorem unlessBusy_of_idle {f : State → State} (h : s.busy = false) : unlessBusy f s = f s := by
  rw [unlessBusy, h, if_neg (by simp)]

end Sys2Proof.Machine

/-! PROOFS. What the host reads: the words of the registers as numbers and bits, the words of the arrays as lanes
(O43, O44, O45), and the level of irq (O56). -/

namespace Sys2Proof.Machine

variable {s t : State} {a : Addr} {w : Word} {rest : List HostEvent}

/-- Zeros in front do not change the number. -/
theorem toNat_zero_append {m n : Nat} (x : BitVec n) : (0#m ++ x).toNat = x.toNat := by simp [BitVec.toNat_append]

/-- Bit 8 of POLY is 1 (10_state.md R30). -/
theorem toNat_polyReg (s : State) : (polyReg s).toNat = 0x100 + s.poly.toNat := by
  rw [polyReg, BitVec.toNat_append, ← Nat.shiftLeft_add_eq_or_of_lt s.poly.isLt]
  rfl

/-- A vector of valid bits is full when each of its 256 bits is set (10_state.md R35). -/
theorem beq_allOnes_eq_all (v : BitVec 256) :
    (v == BitVec.allOnes 256) = (List.range 256).all fun k => v.getLsbD k := by
  rw [Bool.eq_iff_iff, beq_allOnes_iff]
  simp only [List.all_eq_true, List.mem_range]

/-- VALID as a number (10_state.md R35). -/
theorem toNat_validWord (s : State) :
    (validWord s).toNat = (if invFull s then 1 else 0) + (if sbFull s then 2 else 0) := by
  rw [validWord]
  cases invFull s <;> cases sbFull s <;> rfl

/-- The test of NIRR and ERRP, on numbers (10_state.md R25, R26). -/
theorem bne_zero_eq_decide {n : Nat} (x : BitVec n) : (x != 0#n) = decide (x.toNat ≠ 0) := by
  rw [Bool.eq_iff_iff, bne_iff_ne, decide_eq_true_iff, ne_eq, ne_eq, ← BitVec.toNat_inj, BitVec.toNat_ofNat, Nat.zero_mod]

/-- The bits of STATUS (10_state.md R22 to R27). -/
theorem getLsbD_statusWord (s : State) (n : Nat) : (statusWord s).getLsbD n =
    ([s.busy, s.done, s.eq1, nirr s, errp s, irq s][n]?).getD false := by
  simp only [statusWord, BitVec.getLsbD_append]
  rcases n with _ | _ | _ | _ | _ | _ | n <;> simp

/-- irq in terms of the fields (10_state.md R44). -/
theorem irq_iff (s : State) :
    irq s = true ↔ (s.ie.getLsbD 0 = true ∧ s.done = true) ∨ (s.ie.getLsbD 1 = true ∧ s.err ≠ 0#4) := by
  rw [irq, errp, Bool.or_eq_true, Bool.and_eq_true, Bool.and_eq_true, bne_iff_ne]

/-- Settles O56, by `irq_iff` and the reset values of IE and ERR. -/
theorem irqLevel : Obligations.IrqLevel := ⟨irq_iff, rfl⟩

/-- The lanes of a word of a packed array (20_memory.md R66). -/
theorem extractLsb'_readWord (s : State) (n b : Nat) (hb : b < 4) :
    (readWord s n).extractLsb' (8 * b) 8 = readByte s (n + b) := by
  rw [readWord]
  interval_cases b
  · exact BitVec.extractLsb'_append_eq_right
  · rw [BitVec.extractLsb'_append_eq_of_le (by omega)]
    exact BitVec.extractLsb'_append_eq_right
  · rw [BitVec.extractLsb'_append_eq_of_le (by omega), BitVec.extractLsb'_append_eq_of_le (by omega)]
    exact BitVec.extractLsb'_append_eq_right
  · rw [BitVec.extractLsb'_append_eq_of_le (by omega), BitVec.extractLsb'_append_eq_of_le (by omega)]
    exact BitVec.extractLsb'_append_eq_left

/-- Settles O43: a read of STATUS is never hidden, and gives its six bits. -/
theorem statusBits : Obligations.StatusBits := by
  intro s rest ht
  refine ⟨_, step_read ht rfl (.inr rfl), rfl, ?_⟩
  rw [idleWord_of_reg (r := .status) rfl]
  simp only [regWord, getLsbD_statusWord]
  refine ⟨rfl, rfl, rfl, bne_zero_eq_decide _, bne_zero_eq_decide _, ?_, fun n hn => ?_⟩
  · simp [irq, errp, bne_zero_eq_decide]
  · rw [List.getElem?_eq_none hn, Option.getD_none]

/-- Settles O44: an idle read of a register gives the register's word. -/
theorem registerReads : Obligations.RegisterReads := by
  intro s a rest hidle ht h4 h28
  obtain ⟨r, hr⟩ := exists_locate_eq_reg h4 h28
  refine ⟨_, step_read ht (by rw [hr]; rfl) (.inl hidle), rfl, ?_⟩
  have word : ∀ r', locate a = .reg r' → (idleWord s a).toNat = (regWord s r').toNat := fun r' h =>
    congrArg BitVec.toNat (idleWord_of_reg h)
  refine ⟨?_, ?_, ?_, ?_, ?_, ?_, ?_, ?_, ?_⟩ <;> rintro rfl
  · exact word .cmd rfl
  · exact (word .err rfl).trans (toNat_zero_append _)
  · exact (word .ie rfl).trans (toNat_zero_append _)
  · exact ((word .poly rfl).trans (toNat_zero_append _)).trans (toNat_polyReg s)
  · exact (word .result rfl).trans (toNat_zero_append _)
  · exact (word .unres rfl).trans (toNat_zero_append _)
  · exact (word .irrcnt rfl).trans (toNat_zero_append _)
  · exact (word .gmax rfl).trans (toNat_zero_append _)
  · rw [← beq_allOnes_eq_all, ← beq_allOnes_eq_all]
    exact (word .valid rfl).trans (toNat_validWord s)

/-- Settles O45: the lanes of a packed word, and the zero-extended entry of IRR. -/
theorem arrayReads : Obligations.ArrayReads := by
  intro s a rest hidle ht
  constructor
  · intro hp
    refine ⟨_, step_read ht (badAddress_of_packed hp) (.inl hidle), rfl, fun b hb => ?_⟩
    rw [idleWord_of_packed hp]
    exact extractLsb'_readWord s a.toNat b hb
  · intro n hn ha
    have hl : locate a = .irr := locate_irr a (by omega) (by omega) (by omega)
    have hw : idleWord s a = (readIrr s n).setWidth 32 := by
      rw [idleWord_of_irr hl, ha, irrBase, show (0x400 + 4 * n - 0x400) / 4 = n by omega]
      exact (BitVec.setWidth_eq_append (by omega)).symm
    rw [step_read ht (by rw [hl]; rfl) (.inl hidle), hw]

end Sys2Proof.Machine

/-! PROOFS. What the host writes: the registers (O48, O49), the packed arrays with their valid bits (O50), and a write or
any other event that meets an executing command (O37). -/

namespace Sys2Proof.Machine

variable {s t : State} {a : Addr} {w : Word} {rest : List HostEvent}

/-! ## Registers -/

/-- A write to a read-only register is ignored (10_state.md R36). -/
theorem writeReg_of_readOnly {r : Reg} (h : 0x014 ≤ r.offset) : writeReg r w s = s := by
  cases r with
  | result | unres | irrcnt | gmax | valid => rfl
  | cmd | status | err | ie | poly => exact absurd h (by decide)

theorem writeReg_status : writeReg .status w s = { s with done := s.done && !w.getLsbD 1 } := by
  rw [writeReg]
  cases w.getLsbD 1 <;> simp

theorem getLsbD_writeReg_err (n : Nat) (hn : n < 4) :
    (writeReg .err w s).err.getLsbD n = (s.err.getLsbD n && !w.getLsbD n) := by
  simp [writeReg, hn]

theorem writeReg_poly_of_idle (h : s.busy = false) :
    writeReg .poly w s = { s with poly := w.extractLsb' 0 8 } := by rw [writeReg, unlessBusy_of_idle h]

/-- While the core is idle the turn is the host's. -/
theorem hostTurn_of_idle {e : HostEvent} (h : s.busy = false) (hh : s.host = e :: rest) : s.HostTurn e rest :=
  ⟨hh, coreMoves_eq_false_of_idle h⟩

/-- The step of an idle write to POLY (10_state.md R30). -/
theorem step_write_poly (ht : s.HostTurn (.write 0x00010#17 w) rest) (h : s.busy = false) :
    step s = .next { s with poly := w.extractLsb' 0 8, host := rest, wait := s.wait - 1 } := by
  rw [step_write ht, hostWrite_of_reg (r := .poly) rfl, writeReg_poly_of_idle (s := s.popped rest) h]
  rfl

/-- Settles O48, address by address: each is a register of its own law, or read-only, or IRR. -/
theorem registerWrites : Obligations.RegisterWrites := by
  intro s a w rest ht
  have hs := step_write ht
  refine ⟨?_, ?_, ?_, ?_, ?_⟩
  · rintro rfl
    rw [hs, hostWrite_of_reg (r := .status) rfl, writeReg_status]
    rfl
  · rintro rfl
    rw [hostWrite_of_reg (r := .err) rfl] at hs
    exact ⟨_, hs, rfl, getLsbD_writeReg_err⟩
  · rintro rfl
    rw [hs, hostWrite_of_reg (r := .ie) rfl]
    rfl
  · rintro rfl hidle
    exact step_write_poly ht hidle
  · rintro h4 (⟨hlo, hhi⟩ | ⟨hlo, hhi⟩)
    · obtain ⟨r, hr⟩ := exists_locate_eq_reg h4 (by omega)
      rw [hs, hostWrite_of_reg hr, writeReg_of_readOnly (by rw [← locate_eq_reg_iff.1 hr]; exact hlo)]
      rfl
    · rw [hs, hostWrite, locate_irr a h4 hlo (by omega)]
      rfl

/-- Settles O49: the write stores the low eight bits, and the read puts the hardwired bit in front. -/
theorem polyBitEightIsHardwired : Obligations.PolyBitEightIsHardwired := by
  intro s w rest hidle hh
  have hw := step_write_poly (hostTurn_of_idle hidle hh) hidle
  refine ⟨_, ⟨_, hw, _, step_read (hostTurn_of_idle hidle rfl) rfl (.inl hidle), rfl⟩, ?_, rfl⟩
  rw [idleWord_of_reg (r := .poly) rfl, regWord, toNat_zero_append, toNat_polyReg, BitVec.extractLsb'_toNat]
  rfl

/-! ## Packed arrays -/

theorem getElem_lanes (w : Word) (b : Nat) (hb : b < 4) :
    (lanes w)[b]'hb = w.extractLsb' (8 * b) 8 := by
  interval_cases b <;> rfl

/-- The valid bits after a word write at byte address `n` of the array at `base`, in terms of the cells written
(10_state.md R41). -/
theorem getLsbD_setFour_at {base n : Nat} (h : base ≤ n) (v : BitVec 256) (k : Nat) (hk : k < 256) :
    (setFour v (n - base)).getLsbD k = (v.getLsbD k || decide (n ≤ base + k ∧ base + k < n + 4)) := by
  rw [getLsbD_setFour _ _ _ hk, ← Bool.decide_and]
  congr 2
  rw [eq_iff_iff]
  omega

/-- An idle write to a packed word stores its lanes, marks exactly the written INV and SBOX entries, and does nothing else
(10_state.md R41, 20_memory.md R66, R68). -/
theorem hostWrite_of_packed (hp : PackedWord a) (hidle : s.busy = false) :
    ∃ iv sv, hostWrite a w s =
        { s with mem := Memory.writeRange s.mem a.toNat (lanes w), invval := iv, sbval := sv } ∧
      (∀ k < 256, iv.getLsbD k =
        (s.invval.getLsbD k || decide (a.toNat ≤ invBase + k ∧ invBase + k < a.toNat + 4))) ∧
      (∀ k < 256, sv.getLsbD k =
        (s.sbval.getLsbD k || decide (a.toNat ≤ sboxBase + k ∧ sboxBase + k < a.toNat + 4))) := by
  have apart : ∀ (v : BitVec 256) (base k : Nat), ¬(a.toNat ≤ base + k ∧ base + k < a.toNat + 4) →
      v.getLsbD k = (v.getLsbD k || decide (a.toNat ≤ base + k ∧ base + k < a.toNat + 4)) := by
    intro v base k h
    rw [decide_eq_false h, Bool.or_false]
  rcases hp.locate_cases with ⟨hl, hlo, hhi⟩ | ⟨hl, hlo, hhi⟩ | ⟨hl, hlo, hhi⟩ <;>
    rw [hostWrite, hl] <;> refine ⟨_, _, unlessBusy_of_idle hidle, fun k hk => ?_, fun k hk => ?_⟩
  · exact getLsbD_setFour_at hlo _ k hk
  · exact apart _ _ k (by rw [sboxBase]; omega)
  · exact apart _ _ k (by rw [invBase]; omega)
  · exact getLsbD_setFour_at hlo _ k hk
  · exact apart _ _ k (by rw [invBase]; omega)
  · exact apart _ _ k (by rw [sboxBase]; omega)

/-- Settles O50, by `hostWrite_of_packed` and the laws of a written range. -/
theorem arrayWrites : Obligations.ArrayWrites := by
  intro s a w rest hidle hp ht
  obtain ⟨iv, sv, hw, hiv, hsv⟩ := hostWrite_of_packed (w := w) (s := s.popped rest) hp hidle
  refine ⟨_, (step_write ht).trans (congrArg _ hw), fun b hb => ?_, fun hwf => ?_, hiv, hsv, rfl⟩
  · rw [← getElem_lanes w b hb]
    exact readByte_of_written (s := s) rfl hb
  · exact cellsKept_of_written (vs := lanes w) hwf rfl rfl

/-! ## Events that meet an executing command -/

/-- The four things a write to the port can do: touch ERR, IE and DONE (DONE downward only), store POLY, accept a command,
or store a word of a packed array; all but the first only while the core is idle. -/
theorem hostWrite_effect (a : Addr) (w : Word) (s : State) :
    (∃ e i d, (d = true → s.done = true) ∧ hostWrite a w s = { s with err := e, ie := i, done := d }) ∨
    (a = 0x00010#17 ∧ s.busy = false ∧ hostWrite a w s = { s with poly := w.extractLsb' 0 8 }) ∨
    (s.busy = false ∧ legal w = true ∧ (fieldOp w = 0x7#4 → invFull s = true) ∧
      (fieldOp w = 0x8#4 → sbFull s = true) ∧ hostWrite a w s = accept w s) ∨
    (s.busy = false ∧ PackedWord a) := by
  rcases hostWrite_cases a w s with ⟨-, hw⟩ | ⟨-, hw⟩ | ⟨hl, -⟩ | ⟨-, hw⟩ | ⟨-, hw⟩ | ⟨hl, hw⟩ | ⟨hl, hw⟩ | ⟨hl, hw⟩ |
    ⟨hl, hw⟩ | ⟨-, hw⟩
  · exact .inl ⟨_, _, _, id, hw⟩
  · rcases issue_cases w s with ⟨-, h⟩ | ⟨-, -, h⟩ | ⟨-, -, -, -, h⟩ | ⟨-, -, -, -, h⟩ | ⟨hb, hleg, h7, h8, h⟩
    · exact .inl ⟨_, _, _, id, hw.trans h⟩
    · exact .inl ⟨_, _, _, id, hw.trans h⟩
    · exact .inl ⟨_, _, _, id, hw.trans h⟩
    · exact .inl ⟨_, _, _, id, hw.trans h⟩
    · exact .inr (.inr (.inl ⟨hb, hleg, h7, h8, hw.trans h⟩))
  · exact .inl ⟨_, _, _, Bool.and_elim_left, (hostWrite_of_reg hl).trans writeReg_status⟩
  · exact .inl ⟨_, _, _, id, hw⟩
  · exact .inl ⟨_, _, _, id, hw⟩
  · rcases unlessBusy_cases _ s with ⟨-, h⟩ | ⟨hb, h⟩
    · exact .inl ⟨_, _, _, id, hw.trans h⟩
    · exact .inr (.inl ⟨BitVec.eq_of_toNat_eq (locate_eq_reg_iff.1 hl), hb, hw.trans h⟩)
  · rcases unlessBusy_cases _ s with ⟨-, h⟩ | ⟨hb, -⟩
    · exact .inl ⟨_, _, _, id, hw.trans h⟩
    · exact .inr (.inr (.inr ⟨hb, packedWord_iff.2 (.inl hl)⟩))
  · rcases unlessBusy_cases _ s with ⟨-, h⟩ | ⟨hb, -⟩
    · exact .inl ⟨_, _, _, id, hw.trans h⟩
    · exact .inr (.inr (.inr ⟨hb, packedWord_iff.2 (.inr (.inl hl))⟩))
  · rcases unlessBusy_cases _ s with ⟨-, h⟩ | ⟨hb, -⟩
    · exact .inl ⟨_, _, _, id, hw.trans h⟩
    · exact .inr (.inr (.inr ⟨hb, packedWord_iff.2 (.inr (.inr hl))⟩))
  · exact .inl ⟨_, _, _, id, hw⟩

/-- A write while a command executes changes ERR, IE and DONE at most (20_memory.md R71). -/
theorem hostWrite_of_busy (h : s.busy = true) :
    ∃ e i d, hostWrite a w s = { s with err := e, ie := i, done := d } := by
  rcases hostWrite_effect a w s with ⟨e, i, d, -, hw⟩ | ⟨-, hb, -⟩ | ⟨hb, -⟩ | ⟨hb, -⟩
  · exact ⟨e, i, d, hw⟩
  all_goals exact absurd (h.symm.trans hb) (by decide)

/-- Settles O37: reads and polls change the host's side and ERR, writes are as `hostWrite_of_busy` says. -/
theorem executingCommandIsAlone : Obligations.ExecutingCommandIsAlone := by
  intro s e rest hbusy ht hne
  refine ⟨_, step_of_hostTurn ht, ?_⟩
  cases e with
  | read a =>
    rw [hostEvent, hostRead_frame]
    rfl
  | write a w =>
    obtain ⟨e, i, d, hw⟩ := hostWrite_of_busy (a := a) (w := w) (s := s.popped rest) hbusy
    rw [hostEvent, hw]
    rfl
  | poll =>
    rw [hostEvent_poll]
    rfl
  | reset => exact absurd rfl hne

end Sys2Proof.Machine

/-! PROOFS. What no step but its own writers changes: ERR bits (O38), valid bits (O40), results and POLY (O36). -/

namespace Sys2Proof.Machine

variable {s t u : State} {a : Addr} {w : Word} {i : Instr}

/-- Case analysis of a command's effect, one case a command, each with the next state that `exec` gives. -/
theorem exec_elim {motive : ∀ (i : Instr) (u : State), exec i s = .next u → Prop}
    (nop : motive .nop _ (exec_nop s))
    (clmul : ∀ a b, motive (.clmul a b) _ (exec_clmul a b s))
    (pmod : ∀ p, motive (.pmod p) _ (exec_pmod p s))
    (gfmul : ∀ a b, motive (.gfmul a b) _ (exec_gfmul a b s))
    (invgen : motive .invgen _ (exec_invgen s))
    (irrscan : motive .irrscan _ (exec_irrscan s))
    (affine : ∀ x, motive (.affine x) _ (exec_affine x s))
    (afftab : ∀ raw, motive (.afftab raw) _ (exec_afftab raw s))
    (linan : motive .linan _ (exec_linan s))
    (sort : motive .sort _ (exec_sort s)) {i : Instr} {u : State} (h : exec i s = .next u) : motive i u h := by
  have value : ∀ {i : Instr} {v : State} (hv : exec i s = .next v), motive i v hv →
      ∀ {u : State} (h : exec i s = .next u), motive i u h := by
    intro i v hv hm u h
    obtain rfl := Host.Outcome.next.inj (hv.symm.trans h)
    exact hm
  cases i with
  | nop => exact value _ nop h
  | clmul a b => exact value _ (clmul a b) h
  | pmod p => exact value _ (pmod p) h
  | gfmul a b => exact value _ (gfmul a b) h
  | invgen => exact value _ invgen h
  | irrscan => exact value _ irrscan h
  | affine x => exact value _ (affine x) h
  | afftab raw => exact value _ (afftab raw) h
  | linan => exact value _ linan h
  | sort => exact value _ sort h

/-! ## ERR -/

/-- A write clears no ERR bit but by a 1 in it at the address of ERR (10_state.md R28). -/
theorem hostWrite_clears_err {n : Nat} (hs : s.err.getLsbD n = true) (ht : (hostWrite a w s).err.getLsbD n = false) :
    a = 0x00008#17 ∧ w.getLsbD n = true := by
  rcases hostWrite_err a w s with ⟨c, h⟩ | h | ⟨hl, -⟩
  · rw [h, raise_getLsbD, hs] at ht
    cases ht
  · rw [h, hs] at ht
    cases ht
  · rw [hostWrite_of_reg hl, getLsbD_writeReg_err n (BitVec.lt_of_getLsbD hs), hs, Bool.true_and,
      Bool.not_eq_false'] at ht
    exact ⟨BitVec.eq_of_toNat_eq (locate_eq_reg_iff.1 hl), ht⟩

/-- A read clears no ERR bit (20_memory.md R69). -/
theorem hostRead_keeps_err {n : Nat} (hs : s.err.getLsbD n = true) : (hostRead a s).err.getLsbD n = true := by
  rcases hostRead_err a s with h | h
  · rw [h, raise_getLsbD]
    exact Bool.or_eq_true_iff.2 (.inl hs)
  · rw [h, hs]

/-- Settles O38: no completion, read or poll clears an ERR bit, and a write only as `hostWrite_clears_err` says. -/
theorem errorBitsAreSticky : Obligations.ErrorBitsAreSticky := by
  intro s t n hst hs ht
  have kept : t.err.getLsbD n ≠ true := by rw [ht]; decide
  rcases step_cases hst with ⟨i, u, -, -, hu, rfl⟩ | ⟨-, -, rfl⟩ | ⟨e, rest, he, rfl⟩
  · obtain ⟨-, -, herr, -⟩ := exec_keeps hu
    exact absurd (by rw [finish_err, herr, hs]) kept
  · exact absurd hs kept
  · cases e with
    | read a => exact absurd (hostRead_keeps_err (s := s.popped rest) hs) kept
    | write a w =>
      obtain ⟨rfl, hw⟩ := hostWrite_clears_err (s := s.popped rest) hs ht
      exact .inl ⟨w, rest, he, hw⟩
    | poll => exact absurd (by rw [hostEvent_poll]; exact hs) kept
    | reset => exact .inr ⟨rest, he⟩

/-! ## Valid bits -/

/-- No valid bit of `s` is cleared in `t` (10_state.md R41). -/
def ValidKept (s t : State) : Prop :=
  ∀ k, (s.invval.getLsbD k = true → t.invval.getLsbD k = true) ∧ (s.sbval.getLsbD k = true → t.sbval.getLsbD k = true)

theorem ValidKept.of_eq (hi : t.invval = s.invval) (hs : t.sbval = s.sbval) : ValidKept s t := fun k =>
  ⟨fun h => by rw [hi, h], fun h => by rw [hs, h]⟩

/-- Setting every bit clears none. -/
theorem getLsbD_of_eq_allOnes {v v' : BitVec 256} (hv : v' = BitVec.allOnes 256) {k : Nat} (h : v.getLsbD k = true) :
    v'.getLsbD k = true := by
  rw [hv, BitVec.getLsbD_allOnes, decide_eq_true (BitVec.lt_of_getLsbD h)]

/-- A command clears no valid bit: INVGEN and AFFTAB set them all, the others leave them. -/
theorem exec_validKept (h : exec i s = .next u) : ValidKept s u := by
  cases h using exec_elim with
  | invgen =>
    refine fun k => ⟨getLsbD_of_eq_allOnes ?_, fun h => ?_⟩
    · rw [leaveMark_invval, writeUnres_invval, writeInv_invval]
    · rwa [leaveMark_sbval, writeUnres_sbval, writeInv_sbval]
  | afftab raw =>
    refine fun k => ⟨fun h => ?_, getLsbD_of_eq_allOnes ?_⟩
    · rwa [writeSbox_invval]
    · rw [writeSbox_sbval]
  | nop | clmul | pmod | gfmul | irrscan | affine | linan | sort => exact .of_eq (by simp) (by simp)

/-- A write clears no valid bit: an idle write to INV or SBOX sets some. -/
theorem hostWrite_validKept (a : Addr) (w : Word) (s : State) : ValidKept s (hostWrite a w s) := by
  rcases hostWrite_effect a w s with ⟨e, i, d, -, hw⟩ | ⟨-, -, hw⟩ | ⟨-, -, -, -, hw⟩ | ⟨hb, hp⟩
  · rw [hw]; exact .of_eq rfl rfl
  · rw [hw]; exact .of_eq rfl rfl
  · rw [hw]; exact .of_eq rfl rfl
  · obtain ⟨iv, sv, hw, hiv, hsv⟩ := hostWrite_of_packed (w := w) hp hb
    rw [hw]
    refine fun k => ⟨fun h => ?_, fun h => ?_⟩
    · rw [hiv k (BitVec.lt_of_getLsbD h), h, Bool.true_or]
    · rw [hsv k (BitVec.lt_of_getLsbD h), h, Bool.true_or]

/-- Settles O40: neither a completion nor a host event other than reset clears a valid bit. -/
theorem validBitsOnlyResetClears : Obligations.ValidBitsOnlyResetClears := by
  intro s t k hst hnr
  suffices ValidKept s t from this k
  rcases step_cases hst with ⟨i, u, -, -, hu, rfl⟩ | ⟨-, -, rfl⟩ | ⟨e, rest, he, rfl⟩
  · exact fun k => exec_validKept hu k
  · exact .of_eq rfl rfl
  · cases e with
    | read a => rw [hostEvent, hostRead_frame]; exact .of_eq rfl rfl
    | write a w => exact hostWrite_validKept a w (s.popped rest)
    | poll => rw [hostEvent_poll]; exact .of_eq rfl rfl
    | reset => exact absurd he (hnr rest)

/-! ## Results and POLY -/

/-- No result register but those of the command's own changes: each clause is the field's law, or is excluded by the opcode
(10_state.md R24, R31 to R34, R39). -/
theorem exec_keeps_results (h : exec i s = .next u) :
    ((i.opcode ≠ 0x1#4 ∧ i.opcode ≠ 0x2#4 ∧ i.opcode ≠ 0x3#4 ∧ i.opcode ≠ 0x6#4) → u.result = s.result) ∧
    ((i.opcode ≠ 0x2#4 ∧ i.opcode ≠ 0x3#4) → u.eq1 = s.eq1) ∧
    (i.opcode ≠ 0x4#4 → u.unres = s.unres) ∧
    (i.opcode ≠ 0x5#4 → u.irrcnt = s.irrcnt ∧ u.irr = s.irr) ∧
    (i.opcode ≠ 0x9#4 → u.gmax = s.gmax) := by
  cases h using exec_elim <;> simp [Instr.opcode]

/-- No host event but reset changes a result register (10_state.md R31 to R34, R39). -/
theorem hostEvent_keeps_results {e : HostEvent} (he : e ≠ .reset) (s : State) :
    (hostEvent e s).result = s.result ∧ (hostEvent e s).eq1 = s.eq1 ∧ (hostEvent e s).unres = s.unres ∧
      (hostEvent e s).irrcnt = s.irrcnt ∧ (hostEvent e s).irr = s.irr ∧ (hostEvent e s).gmax = s.gmax := by
  cases e with
  | read a =>
    rw [hostEvent, hostRead_frame]
    exact ⟨rfl, rfl, rfl, rfl, rfl, rfl⟩
  | write a w =>
    obtain ⟨heq1, hresult, hunres, hirrcnt, hgmax, hirr, -⟩ := hostWrite_keeps a w s
    exact ⟨hresult, heq1, hunres, hirrcnt, hirr, hgmax⟩
  | poll =>
    rw [hostEvent_poll]
    exact ⟨rfl, rfl, rfl, rfl, rfl, rfl⟩
  | reset => exact absurd rfl he

/-- No host event but reset and an idle write to POLY changes POLY (10_state.md R30, 20_memory.md R71). -/
theorem hostEvent_keeps_poly {e : HostEvent} (he : e ≠ .reset)
    (hw : ∀ w, s.busy = false → e ≠ .write 0x00010#17 w) : (hostEvent e s).poly = s.poly := by
  cases e with
  | read a => rw [hostEvent, hostRead_frame]
  | write a w =>
    rw [hostEvent]
    rcases hostWrite_effect a w s with ⟨e, i, d, -, h⟩ | ⟨rfl, hb, -⟩ | ⟨-, -, -, -, h⟩ | ⟨hb, hp⟩
    · rw [h]
    · exact absurd rfl (hw w hb)
    · rw [h, accept_poly]
    · obtain ⟨iv, sv, h, -⟩ := hostWrite_of_packed (w := w) hp hb
      rw [h]
  | poll => rw [hostEvent_poll]
  | reset => exact absurd rfl he

/-- Settles O36: a completion by `exec_keeps_results`, a host event by `hostEvent_keeps_results`. -/
theorem resultsHaveTheirWriters : Obligations.ResultsHaveTheirWriters := by
  intro s t hst hnr
  rcases step_cases hst with ⟨i, u, hc, hd, hu, rfl⟩ | ⟨-, -, rfl⟩ | ⟨e, rest, he, rfl⟩
  · have hi : s.CoreTurn i := ⟨hc, hd⟩
    obtain ⟨hresult, heq1, hunres, hirr, hgmax⟩ := exec_keeps_results hu
    obtain ⟨-, -, -, -, hpoly, -⟩ := exec_keeps hu
    exact ⟨fun h => hresult (h i hi), fun h => heq1 (h i hi), fun h => hunres (h i hi), fun h => hirr (h i hi),
      fun h => hgmax (h i hi), fun _ => hpoly⟩
  · exact ⟨fun _ => rfl, fun _ => rfl, fun _ => rfl, fun _ => ⟨rfl, rfl⟩, fun _ => rfl, fun _ => rfl⟩
  · have hne : e ≠ .reset := by
      rintro rfl
      exact hnr rest he
    obtain ⟨hresult, heq1, hunres, hirrcnt, hirr, hgmax⟩ := hostEvent_keeps_results hne (s.popped rest)
    refine ⟨fun _ => hresult, fun _ => heq1, fun _ => hunres, fun _ => ⟨hirrcnt, hirr⟩, fun _ => hgmax, fun h => ?_⟩
    refine hostEvent_keeps_poly (s := s.popped rest) hne fun w hb hew => h w rest hb ?_
    rw [← hew]
    exact he

end Sys2Proof.Machine

/-! PROOFS. Every step keeps the invariant (O13). `State.Inv` is taken apart into what it says of the arrays and results
(`DataInv`), which commands and word writes change, and what it says of the handshake (`HandshakeInv`), which only
acceptance and completion change. -/

namespace Sys2Proof.Machine

variable {s t u : State} {a : Addr} {w : Word} {i : Instr}

/-! ## The byte memory and its valid bits -/

/-- The clauses of `State.Inv` on the byte memory: canonical, mapped cells only, and valid bits that record the written
INV and SBOX entries (10_state.md R46, 20_memory.md R64). -/
structure CellsRecorded (m : List Host.Cell) (iv sv : BitVec 256) : Prop where
  wf : Memory.wf m
  mapped : ∀ c ∈ m, (0x00100 ≤ c.1 ∧ c.1 < 0x00300) ∨ (0x10000 ≤ c.1 ∧ c.1 < 0x20000)
  inv : ∀ k < 256, iv.getLsbD k = (Memory.get? m (invBase + k)).isSome
  sbox : ∀ k < 256, sv.getLsbD k = (Memory.get? m (sboxBase + k)).isSome

/-- A write inside the mapped ranges keeps the record when it sets exactly the valid bits of the cells written. -/
theorem CellsRecorded.writeRange {m : List Host.Cell} {iv sv iv' sv' : BitVec 256} (h : CellsRecorded m iv sv) {n : Nat}
    {vs : List Byte}
    (hr : (0x00100 ≤ n ∧ n + vs.length ≤ 0x00300) ∨ (0x10000 ≤ n ∧ n + vs.length ≤ 0x20000))
    (hiv : ∀ k < 256, iv'.getLsbD k = (iv.getLsbD k || decide (n ≤ invBase + k ∧ invBase + k < n + vs.length)))
    (hsv : ∀ k < 256, sv'.getLsbD k = (sv.getLsbD k || decide (n ≤ sboxBase + k ∧ sboxBase + k < n + vs.length))) :
    CellsRecorded (Memory.writeRange m n vs) iv' sv' where
  wf := Memory.wf_writeRange h.wf n vs
  mapped c hc := by
    rcases Memory.mem_writeRange.1 hc with ⟨hm, -⟩ | ⟨j, hj, rfl⟩
    · exact h.mapped c hm
    · simp only
      omega
  inv k hk := by rw [Memory.isSome_get?_writeRange h.wf, ← h.inv k hk, hiv k hk]
  sbox k hk := by rw [Memory.isSome_get?_writeRange h.wf, ← h.sbox k hk, hsv k hk]

/-- A write that covers an array of 256 entries sets all its valid bits. -/
theorem getLsbD_allOnes_of_covered {base l k : Nat} (v : BitVec 256) (hl : l = 256) (hk : k < 256) :
    (BitVec.allOnes 256).getLsbD k = (v.getLsbD k || decide (base ≤ base + k ∧ base + k < base + l)) := by
  rw [BitVec.getLsbD_allOnes, decide_eq_true hk, decide_eq_true (by omega), Bool.or_true]

/-- A write outside an array leaves its valid bits. -/
theorem getLsbD_of_apart {n base l k : Nat} (v : BitVec 256) (h : n + l ≤ base ∨ base + 256 ≤ n) (hk : k < 256) :
    v.getLsbD k = (v.getLsbD k || decide (n ≤ base + k ∧ base + k < n + l)) := by
  rw [decide_eq_false (by omega), Bool.or_false]

/-! ## IRR and its count -/

/-- The clauses of `State.Inv` on IRR and IRRCNT (10_state.md R33, R39). -/
structure IrrRecorded (m : List (Nat × Poly)) (cnt : Byte) : Prop where
  wf : Memory.wf m
  mapped : ∀ c ∈ m, c.1 < 128
  range : cnt.toNat ≤ 128
  listed : ∀ n < cnt.toNat, (Memory.get? m n).isSome = true

/-- A list of at most 128 entries, written from entry 0 on, is recorded under its length. -/
theorem IrrRecorded.writeRange {m : List (Nat × Poly)} {cnt : Byte} (h : IrrRecorded m cnt) {rs : List Poly}
    (hl : rs.length ≤ 128) : IrrRecorded (Memory.writeRange m 0 rs) (BitVec.ofNat 8 rs.length) := by
  have hcnt : (BitVec.ofNat 8 rs.length).toNat = rs.length := by
    rw [BitVec.toNat_ofNat, Nat.mod_eq_of_lt (by omega)]
  refine ⟨Memory.wf_writeRange h.wf 0 rs, fun c hc => ?_, by omega, fun n hn => ?_⟩
  · rcases Memory.mem_writeRange.1 hc with ⟨hm, -⟩ | ⟨j, hj, rfl⟩
    · exact h.mapped c hm
    · simp only
      omega
  · rw [Memory.isSome_get?_writeRange h.wf, decide_eq_true (by omega), Bool.or_true]

/-! ## RESULT -/

/-- A product has at most 15 significant bits (90_conflicts.md C5). -/
theorem getLsbD_clmul_fifteen (a b : Byte) : (clmul a b).getLsbD 15 = false := by
  rw [clmul]
  refine List.foldlRecOn (motive := fun t : Product => t.getLsbD 15 = false) _ _ (by simp) fun t ht j hj => ?_
  have hj : j < 8 := by
    simp only [List.mem_cons, List.not_mem_nil, or_false] at hj
    omega
  split
  · rw [BitVec.getLsbD_xor, ht, BitVec.getLsbD_shiftLeft, BitVec.getLsbD_setWidth, BitVec.getLsbD_of_ge a _ (by omega)]
    simp
  · exact ht

/-- A byte in RESULT leaves bit 15 clear. -/
theorem getLsbD_setWidth_fifteen (v : Byte) : (v.setWidth 16 : Product).getLsbD 15 = false := by simp

/-! ## The two halves of the invariant -/

/-- What `State.Inv` says of the arrays and the result registers. -/
structure State.DataInv (s : State) : Prop where
  cells : CellsRecorded s.mem s.invval s.sbval
  irr : IrrRecorded s.irr s.irrcnt
  unres : s.unres.toNat ≤ 254
  result : s.result.getLsbD 15 = false

/-- What `State.Inv` says of the handshake. -/
structure State.HandshakeInv (s : State) : Prop where
  legal : s.busy = true → legal s.lcmd = true
  notDone : s.busy = true → s.done = false
  invFull : s.busy = true → fieldOp s.lcmd = 0x7#4 → invFull s = true
  sbFull : s.busy = true → fieldOp s.lcmd = 0x8#4 → sbFull s = true
  idleWait : s.busy = false → s.wait = 0

theorem State.inv_iff : s.Inv ↔ s.DataInv ∧ s.HandshakeInv := by
  constructor
  · rintro ⟨mem, mapped, irr, irrMapped, inv, sb, unres, irrcnt, listed, result, legal, done, full, sbFull, wait⟩
    exact ⟨⟨⟨mem, mapped, inv, sb⟩, ⟨irr, irrMapped, irrcnt, listed⟩, unres, result⟩, ⟨legal, done, full, sbFull, wait⟩⟩
  · rintro ⟨⟨⟨mem, mapped, inv, sb⟩, ⟨irr, irrMapped, irrcnt, listed⟩, unres, result⟩, ⟨legal, done, full, sbFull, wait⟩⟩
    exact ⟨mem, mapped, irr, irrMapped, inv, sb, unres, irrcnt, listed, result, legal, done, full, sbFull, wait⟩

/-- Between commands the handshake says only that no completion is pending. -/
theorem State.HandshakeInv.of_idle (hb : s.busy = false) (hw : s.wait = 0) : s.HandshakeInv := by
  have idle : s.busy ≠ true := by rw [hb]; decide
  exact ⟨fun h => absurd h idle, fun h => absurd h idle, fun h => absurd h idle, fun h => absurd h idle, fun _ => hw⟩

/-! ## What commands write -/

namespace State.DataInv

theorem leaveMark (h : s.DataInv) : (leaveMark s).DataInv := ⟨h.cells, h.irr, h.unres, h.result⟩

theorem writeGmax (h : s.DataInv) (v : Byte) : (writeGmax v s).DataInv := ⟨h.cells, h.irr, h.unres, h.result⟩

theorem finish (h : s.DataInv) : (finish s).DataInv := ⟨h.cells, h.irr, h.unres, h.result⟩

theorem writeUnres (h : s.DataInv) {n : Nat} (hn : n ≤ 254) : (writeUnres (BitVec.ofNat 8 n) s).DataInv :=
  ⟨h.cells, h.irr, (Nat.mod_le n _).trans hn, h.result⟩

theorem writeResult (h : s.DataInv) {v : Product} (hv : v.getLsbD 15 = false) : (writeResult v s).DataInv :=
  ⟨h.cells, h.irr, h.unres, hv⟩

theorem writeReduced (h : s.DataInv) (v : Byte) : (writeReduced v s).DataInv :=
  ⟨h.cells, h.irr, h.unres, getLsbD_setWidth_fifteen v⟩

theorem writeIrr (h : s.DataInv) {rs : List Poly} (hl : rs.length ≤ 128) : (writeIrr rs s).DataInv :=
  ⟨h.cells, h.irr.writeRange hl, h.unres, h.result⟩

theorem writeInv (h : s.DataInv) {vs : List Byte} (hl : vs.length = 256) : (writeInv vs s).DataInv := by
  refine ⟨h.cells.writeRange (.inl ?_) (fun k hk => ?_) fun k hk => ?_, h.irr, h.unres, h.result⟩
  · rw [hl, invBase]
    omega
  · exact getLsbD_allOnes_of_covered _ hl hk
  · exact getLsbD_of_apart _ (.inl (by rw [hl, invBase, sboxBase])) hk

theorem writeSbox (h : s.DataInv) {vs : List Byte} (hl : vs.length = 256) : (writeSbox vs s).DataInv := by
  refine ⟨h.cells.writeRange (.inl ?_) (fun k hk => ?_) fun k hk => ?_, h.irr, h.unres, h.result⟩
  · rw [hl, sboxBase]
    omega
  · exact getLsbD_of_apart _ (.inr le_rfl) hk
  · exact getLsbD_allOnes_of_covered _ hl hk

theorem writeDev (h : s.DataInv) {vs : List Byte} (hl : vs.length = 256 * 255) : (writeDev vs s).DataInv := by
  refine ⟨h.cells.writeRange (.inr ?_) (fun k hk => ?_) fun k hk => ?_, h.irr, h.unres, h.result⟩
  · rw [hl, devBase]
    omega
  · exact getLsbD_of_apart _ (.inr (by rw [invBase, devBase]; omega)) hk
  · exact getLsbD_of_apart _ (.inr (by rw [sboxBase, devBase]; omega)) hk

end State.DataInv

/-- Every command keeps the data half of the invariant. -/
theorem exec_dataInv (hs : s.DataInv) (h : exec i s = .next u) : u.DataInv := by
  cases h using exec_elim with
  | nop => exact hs
  | clmul a b => exact hs.writeResult (getLsbD_clmul_fifteen a b)
  | pmod | gfmul => exact hs.writeReduced _
  | affine x => exact hs.writeResult (getLsbD_setWidth_fifteen _)
  | invgen => exact ((hs.writeInv (length_invfind _)).writeUnres (unres_invfind_le _)).leaveMark
  | irrscan => exact (hs.writeIrr length_irreducibles_le).leaveMark
  | afftab raw => exact hs.writeSbox (by rw [List.length_map, invTable, length_readBytes])
  | linan => exact hs.writeDev (length_rows _ (length_deviationRow _) 1 255)
  | sort =>
    refine (hs.writeDev ?_).writeGmax _
    rw [← List.flatMap_def]
    exact length_rows _ (fun n => by rw [length_sortrow, length_devRow]) 1 255

/-! ## Host events -/

/-- The invariant does not see ERR, IE, POLY and the outside's fields, and lets DONE fall. -/
theorem State.Inv.of_registers (h : s.Inv) {d : Bool} (hd : d = true → s.done = true) (e : BitVec 4) (i : BitVec 2)
    (p : Byte) (l : List HostEvent) (r : Word) (n : Nat) :
    ({ s with done := d, err := e, ie := i, poly := p, host := l, rdata := r, draws := n } : State).Inv := by
  obtain ⟨⟨hc, hi, hu, hr⟩, ⟨hleg, hdone, h7, h8, hw⟩⟩ := State.inv_iff.1 h
  refine State.inv_iff.2 ⟨⟨hc, hi, hu, hr⟩, ⟨hleg, fun hb => ?_, h7, h8, hw⟩⟩
  exact Bool.eq_false_iff.2 fun h => absurd (hd h) (by rw [hdone hb]; decide)

/-- An event of the host that is counted. -/
theorem State.Inv.popped (h : s.Inv) (rest : List HostEvent) : (s.popped rest).Inv := by
  obtain ⟨⟨hc, hi, hu, hr⟩, ⟨hleg, hdone, h7, h8, hw⟩⟩ := State.inv_iff.1 h
  exact State.inv_iff.2 ⟨⟨hc, hi, hu, hr⟩, ⟨hleg, hdone, h7, h8, fun hb => by rw [popped_wait, hw hb]⟩⟩

/-- An acceptance establishes what the invariant says of an executing command (30_encoding.md R102). -/
theorem State.DataInv.accept (h : s.DataInv) (hleg : Sys2Proof.legal w = true)
    (h7 : fieldOp w = 0x7#4 → Machine.invFull s = true) (h8 : fieldOp w = 0x8#4 → Machine.sbFull s = true) :
    (accept w s).Inv :=
  State.inv_iff.2 ⟨⟨h.cells, h.irr, h.unres, h.result⟩, ⟨fun _ => hleg, fun _ => rfl, fun _ => h7, fun _ => h8, nofun⟩⟩

/-- Every write to the port keeps the invariant, in each of the four cases of `hostWrite_effect`. -/
theorem hostWrite_inv (h : s.Inv) (a : Addr) (w : Word) : (hostWrite a w s).Inv := by
  obtain ⟨hd, hh⟩ := State.inv_iff.1 h
  rcases hostWrite_effect a w s with ⟨e, i, d, hdone, hw⟩ | ⟨-, -, hw⟩ | ⟨-, hleg, h7, h8, hw⟩ | ⟨hb, hp⟩
  · rw [hw]
    exact h.of_registers hdone ..
  · rw [hw]
    exact h.of_registers id ..
  · rw [hw]
    exact hd.accept hleg h7 h8
  · obtain ⟨iv, sv, hw, hiv, hsv⟩ := hostWrite_of_packed (w := w) hp hb
    rw [hw]
    refine State.inv_iff.2 ⟨⟨hd.cells.writeRange ?_ hiv hsv, hd.irr, hd.unres, hd.result⟩, .of_idle hb (hh.idleWait hb)⟩
    obtain ⟨h4, ⟨hlo, hhi⟩ | hlo⟩ := hp <;> rw [length_lanes] <;> omega

/-- The reset input establishes the invariant (70_reset_and_hazards.md R260). -/
theorem assertReset_inv (s : State) : (assertReset s).Inv := by
  constructor <;> simp [Memory.wf]

/-- Every event of the host keeps the invariant. -/
theorem hostEvent_inv (h : s.Inv) (e : HostEvent) : (hostEvent e s).Inv := by
  cases e with
  | read a =>
    rw [hostEvent, hostRead_frame]
    exact h.of_registers id ..
  | write a w => exact hostWrite_inv h a w
  | poll =>
    rw [hostEvent_poll]
    exact h.of_registers id ..
  | reset => exact assertReset_inv s

/-- Settles O13: a completion keeps the data half and ends the handshake; a host event keeps both halves. -/
theorem stepKeepsInvariant : Obligations.StepKeepsInvariant := by
  intro s t hs hst
  rcases step_cases hst with ⟨i, u, -, -, hu, rfl⟩ | ⟨-, -, rfl⟩ | ⟨e, rest, -, rfl⟩
  · obtain ⟨hd, -⟩ := State.inv_iff.1 hs
    exact State.inv_iff.2 ⟨(exec_dataInv hd hu).finish, .of_idle rfl rfl⟩
  · exact hs
  · exact hostEvent_inv (hs.popped rest) e

end Sys2Proof.Machine

/-! PROOFS. The port's accesses that fail, are dropped or are hidden (O46, O47, O53, O54), what an idle host reads back
(O51, O52), and the host's turn in general (O9). -/

namespace Sys2Proof.Machine

variable {s t : State} {a : Addr} {w : Word} {rest : List HostEvent}

/-! ## Addresses outside the map (20_memory.md R62, R65) -/

theorem regAt_of_ge {n : Nat} (h : 0x00028 ≤ n) : regAt n = .unmapped := by
  rcases regAt_cases n with hn | ⟨r, hn⟩
  · exact hn
  · obtain ⟨-, hlt⟩ := r.offset_bounds
    have := eq_offset_of_regAt hn
    omega

theorem locate_unmapped (h4 : a.toNat % 4 = 0)
    (h : 0x00028 ≤ a.toNat ∧ a.toNat ≤ 0x000FF ∨ 0x00300 ≤ a.toNat ∧ a.toNat ≤ 0x003FF ∨
      0x00600 ≤ a.toNat ∧ a.toNat ≤ 0x0FFFF) : locate a = .unmapped := by
  rcases h with ⟨hlo, hhi⟩ | ⟨hlo, hhi⟩ | ⟨hlo, hhi⟩
  · rw [locate_eq_regAt h4 (by omega), regAt_of_ge hlo]
  · rw [locate, if_neg (by omega), if_neg (by omega), if_neg (by omega), if_neg (by omega), if_pos (by omega)]
  · rw [locate, if_neg (by omega), if_neg (by omega), if_neg (by omega), if_neg (by omega), if_neg (by omega),
      if_neg (by omega), if_pos (by omega)]

/-- A misaligned or unmapped address is outside the map. -/
theorem badAddress_of_outside (h : a.toNat % 4 ≠ 0 ∨ 0x00028 ≤ a.toNat ∧ a.toNat ≤ 0x000FF ∨
      0x00300 ≤ a.toNat ∧ a.toNat ≤ 0x003FF ∨ 0x00600 ≤ a.toNat ∧ a.toNat ≤ 0x0FFFF) :
    badAddress (locate a) = true := by
  by_cases h4 : a.toNat % 4 = 0
  · rw [locate_unmapped h4 (h.resolve_left (absurd h4))]
    rfl
  · rw [locate_misaligned a h4]
    rfl

/-- The step of a read outside the map: 0 on the port and ADDR (60_exceptions.md R233). -/
theorem step_read_of_badAddress (ht : s.HostTurn (.read a) rest) (hb : badAddress (locate a) = true) :
    step s = .next { s with rdata := 0#32, err := s.err ||| 0x4#4, host := rest, wait := s.wait - 1 } := by
  rw [step_of_hostTurn ht, hostEvent, hostRead, if_pos hb]
  rfl

theorem hostWrite_of_badAddress (hb : badAddress (locate a) = true) : hostWrite a w s = raise .addr s := by
  rw [hostWrite]
  cases hl : locate a with
  | misaligned | unmapped => rfl
  | reg | inv | sbox | irr | dev => rw [hl] at hb; cases hb

/-- The step of a write outside the map: ADDR alone (60_exceptions.md R233). -/
theorem step_write_of_badAddress (ht : s.HostTurn (.write a w) rest) (hb : badAddress (locate a) = true) :
    step s = .next { s with err := s.err ||| 0x4#4, host := rest, wait := s.wait - 1 } := by
  rw [step_write ht, hostWrite_of_badAddress hb]
  rfl

/-- Settles O46: a misaligned address is outside the map. -/
theorem misalignedAccess : Obligations.MisalignedAccess := by
  intro s a w rest h4
  have hb := badAddress_of_outside (.inl h4)
  exact ⟨fun ht => ⟨_, step_read_of_badAddress ht hb⟩, fun ht => ⟨_, step_write_of_badAddress ht hb⟩⟩

/-- Settles O47: an unmapped address is outside the map. -/
theorem unmappedAccess : Obligations.UnmappedAccess := by
  intro s a w rest h4 h
  have hb := badAddress_of_outside (.inr (h.imp_left fun ⟨hlo, hhi⟩ => ⟨hlo, by omega⟩))
  exact ⟨fun ht => ⟨_, step_read_of_badAddress ht hb⟩, fun ht => ⟨_, step_write_of_badAddress ht hb⟩⟩

/-! ## Reading back while idle -/

/-- Settles O51: the write lists the four lanes, and the read gives the word they make up. -/
theorem arrayRoundTrip : Obligations.ArrayRoundTrip := by
  intro s a w rest hidle hp hh
  obtain ⟨iv, sv, hw, -⟩ := hostWrite_of_packed (w := w) (s := s.popped (.read a :: rest)) hp hidle
  have hs := (step_write (hostTurn_of_idle hidle hh)).trans (congrArg _ hw)
  refine ⟨_, ⟨_, hs, _, step_read (hostTurn_of_idle hidle rfl) (badAddress_of_packed hp) (.inl hidle), rfl⟩, ?_, rfl, rfl⟩
  rw [idleWord_of_packed hp]
  exact readWord_of_written (s := s) rfl

/-- The words that reads give do not see the word last read. -/
theorem idleWord_rdata (v : Word) : idleWord { s with rdata := v } a = idleWord s a := by
  unfold idleWord
  cases locate a with
  | reg r => cases r <;> rfl
  | _ => rfl

/-- Settles O52: a read changes only the host's side, which the second read's word does not see. -/
theorem readsAreIdempotent : Obligations.ReadsAreIdempotent := by
  intro s a rest hidle hb hh
  have first := step_read (hostTurn_of_idle hidle hh) hb (.inl hidle)
  refine ⟨_, _, ⟨_, first, rfl⟩, ⟨_, step_read (hostTurn_of_idle hidle rfl) hb (.inl hidle), rfl⟩, ?_, rfl⟩
  exact (idleWord_rdata (s := s.popped (.read a :: rest)) _).trans idleWord_popped

/-! ## Accesses that meet an executing command (20_memory.md R71) -/

theorem unlessBusy_of_busy {f : State → State} (h : s.busy = true) : unlessBusy f s = raise .busywr s := by
  rw [unlessBusy, if_pos h]

/-- The writes that an executing command drops: to CMD, to POLY and to the packed arrays. -/
theorem hostWrite_of_dropped (h : s.busy = true) (ha : a = 0x00000#17 ∨ a = 0x00010#17 ∨ PackedWord a) :
    hostWrite a w s = raise .busywr s := by
  rcases ha with rfl | rfl | hp
  · rw [hostWrite_of_reg (r := .cmd) rfl, writeReg, issue, if_pos h]
  · rw [hostWrite_of_reg (r := .poly) rfl, writeReg, unlessBusy_of_busy h]
  · rcases packedWord_iff.1 hp with hl | hl | hl <;> rw [hostWrite, hl] <;> exact unlessBusy_of_busy h

/-- Settles O53, by `hostWrite_of_dropped`. -/
theorem busyWritesAreDropped : Obligations.BusyWritesAreDropped := by
  intro s a w rest hbusy ht ha
  rw [step_write ht, hostWrite_of_dropped (s := s.popped rest) hbusy ha]
  rfl

/-- The step of a busy read of a result or an array: a free value, drawn (entry 4). -/
theorem step_read_of_hidden (ht : s.HostTurn (.read a) rest) (hbusy : s.busy = true)
    (hb : badAddress (locate a) = false) (hv : hiddenWhileBusy (locate a) = true) :
    ∃ v, step s = .next { s with rdata := v, draws := s.draws + 1, host := rest, wait := s.wait - 1 } := by
  refine ⟨Config.busyRead s.draws a { lcmd := s.lcmd, poly := polyReg s, mem := s.mem }, ?_⟩
  have hh : ((s.popped rest).busy && hiddenWhileBusy (locate a)) = true := by rw [hv, Bool.and_true]; exact hbusy
  rw [step_of_hostTurn ht, hostEvent, hostRead, hb, if_neg (by simp), if_pos hh]
  rfl

/-- The registers from RESULT on, IRR and the packed arrays are mapped, and hidden while busy. -/
theorem hiddenWhileBusy_of_results
    (h : (a.toNat % 4 = 0 ∧ (0x00014 ≤ a.toNat ∧ a.toNat ≤ 0x00024 ∨ 0x00400 ≤ a.toNat ∧ a.toNat ≤ 0x005FF)) ∨
      PackedWord a) : badAddress (locate a) = false ∧ hiddenWhileBusy (locate a) = true := by
  rcases h with ⟨h4, ⟨hlo, hhi⟩ | ⟨hlo, hhi⟩⟩ | hp
  · obtain ⟨r, hr⟩ := exists_locate_eq_reg h4 (by omega)
    rw [locate_eq_reg_iff.1 hr] at hlo
    rw [hr]
    cases r with
    | result | unres | irrcnt | gmax | valid => exact ⟨rfl, rfl⟩
    | cmd | status | err | ie | poly => exact absurd hlo (by decide)
  · rw [locate_irr a h4 hlo (by omega)]
    exact ⟨rfl, rfl⟩
  · refine ⟨badAddress_of_packed hp, ?_⟩
    rcases packedWord_iff.1 hp with hl | hl | hl <;> rw [hl] <;> rfl

/-- The step of a read of a register that is not hidden while busy. -/
theorem step_read_of_visible {r : Reg} (ht : s.HostTurn (.read a) rest) (hr : locate a = .reg r)
    (hv : hiddenWhileBusy (.reg r) = false) :
    step s = .next { s with rdata := regWord s r, host := rest, wait := s.wait - 1 } := by
  rw [← idleWord_of_reg hr]
  exact step_read ht (by rw [hr]; rfl) (.inr (by rw [hr]; exact hv))

/-- POLY as a word: the hardwired bit over the eight stored ones (10_state.md R30). -/
theorem regWord_poly (s : State) : regWord s .poly = 0x100#32 ||| s.poly.setWidth 32 := by
  have hp := s.poly.isLt
  apply BitVec.eq_of_toNat_eq
  rw [regWord, toNat_zero_append, polyReg, BitVec.toNat_append, BitVec.toNat_or, BitVec.toNat_setWidth,
    Nat.mod_eq_of_lt (by omega)]
  rfl

/-- Settles O54: the visible registers give their words, results and arrays a free value, the rest ADDR. -/
theorem busyReads : Obligations.BusyReads := by
  intro s a rest hbusy ht
  refine ⟨?_, ?_, ?_, ?_, ?_, fun h => ?_, fun h => ?_⟩
  · rintro rfl
    exact step_read_of_visible (r := .cmd) ht rfl rfl
  · rintro rfl
    exact step_read_of_visible (r := .status) ht rfl rfl
  · rintro rfl
    rw [BitVec.setWidth_eq_append (by omega)]
    exact step_read_of_visible (r := .err) ht rfl rfl
  · rintro rfl
    rw [BitVec.setWidth_eq_append (by omega)]
    exact step_read_of_visible (r := .ie) ht rfl rfl
  · rintro rfl
    rw [← regWord_poly]
    exact step_read_of_visible (r := .poly) ht rfl rfl
  · obtain ⟨hb, hv⟩ := hiddenWhileBusy_of_results h
    exact step_read_of_hidden ht hbusy hb hv
  · exact step_read_of_badAddress ht (badAddress_of_outside h)

/-! ## The host's turn (20_memory.md R72, R73) -/

/-- While the core is idle and the host has no event left, a step changes nothing (entry 15). -/
theorem step_of_idle_nil (h : s.busy = false) (hh : s.host = []) : step s = .next s := by
  rw [step, coreMoves_eq_false_of_idle h, hostStep, hh]
  rfl

/-- Settles O9: a turn of the host runs its event, and nobody moves without one. -/
theorem stepRunsHostEvent : Obligations.StepRunsHostEvent :=
  ⟨fun _ _ _ => step_of_hostTurn, fun _ => step_of_idle_nil⟩

end Sys2Proof.Machine

/-! PROOFS. Command words: their fields and formats as numbers (O3), and from these that decoding and encoding are
inverse (O1, O2), what the decoder refuses (O4, O6), the rows of the opcode table (O5) and the assembler (O7). -/

namespace Sys2Proof

variable {w : Word} {i : Instr}

/-! ## The fields of a word as numbers (30_encoding.md R91) -/

theorem toNat_extractLsb'_eq (w : Word) (k n : Nat) : (w.extractLsb' k n).toNat = w.toNat / 2 ^ k % 2 ^ n := by
  rw [BitVec.extractLsb'_toNat, Nat.shiftRight_eq_div_pow]

theorem toNat_fieldOp (w : Word) : (fieldOp w).toNat = w.toNat % 16 := by
  rw [fieldOp, toNat_extractLsb'_eq, Nat.pow_zero, Nat.div_one]
  rfl

theorem toNat_fieldA (w : Word) : (fieldA w).toNat = w.toNat / 256 % 256 := toNat_extractLsb'_eq ..

theorem toNat_fieldB (w : Word) : (fieldB w).toNat = w.toNat / 65536 % 256 := toNat_extractLsb'_eq ..

theorem toNat_fieldP (w : Word) : (fieldP w).toNat = w.toNat / 256 % 65536 := toNat_extractLsb'_eq ..

theorem toNat_fieldRaw (w : Word) : (fieldRaw w).toNat = w.toNat / 16 % 2 := by
  rw [fieldRaw, BitVec.getLsbD, Nat.toNat_testBit]

theorem fieldOp_eq_iff {op : BitVec 4} : fieldOp w = op ↔ w.toNat % 16 = op.toNat := by
  rw [← BitVec.toNat_inj, toNat_fieldOp]

/-! ## The formats as numbers (30_encoding.md R92) -/

theorem extractLsb'_beq_zero_iff (w : Word) (k n : Nat) :
    (w.extractLsb' k n == 0#n) = true ↔ w.toNat / 2 ^ k % 2 ^ n = 0 := by
  rw [beq_iff_eq, ← BitVec.toNat_inj, toNat_extractLsb'_eq, BitVec.toNat_ofNat, Nat.zero_mod]

theorem fmtN_iff : fmtN w = true ↔ w.toNat / 16 = 0 := by
  rw [fmtN, extractLsb'_beq_zero_iff]
  omega

theorem fmtAB_iff : fmtAB w = true ↔ w.toNat / 0x1000000 = 0 ∧ w.toNat / 16 % 16 = 0 := by
  rw [fmtAB, Bool.and_eq_true, extractLsb'_beq_zero_iff, extractLsb'_beq_zero_iff]
  omega

theorem fmtX_iff : fmtX w = true ↔ w.toNat / 0x10000 = 0 ∧ w.toNat / 16 % 16 = 0 := by
  rw [fmtX, Bool.and_eq_true, extractLsb'_beq_zero_iff, extractLsb'_beq_zero_iff]
  omega

theorem fmtR_iff : fmtR w = true ↔ w.toNat / 32 = 0 := by
  rw [fmtR, extractLsb'_beq_zero_iff]
  omega

/-! ## The decoder by opcode -/

/-- The command of `i`'s row of the opcode table with the operands that `w` carries (30_encoding.md R93). -/
def Instr.readFrom (w : Word) : Instr → Instr
  | .nop => .nop
  | .clmul _ _ => .clmul (fieldA w) (fieldB w)
  | .pmod _ => .pmod (fieldP w)
  | .gfmul _ _ => .gfmul (fieldA w) (fieldB w)
  | .invgen => .invgen
  | .irrscan => .irrscan
  | .affine _ => .affine (fieldA w)
  | .afftab _ => .afftab (fieldRaw w)
  | .linan => .linan
  | .sort => .sort

@[simp] theorem Instr.opcode_readFrom : (i.readFrom w).opcode = i.opcode := by cases i <;> rfl

/-- Every opcode below 0xA is a command's (30_encoding.md R94). -/
theorem exists_opcode_eq {op : BitVec 4} (h : op.toNat < 10) : ∃ i : Instr, op = i.opcode := by
  have : op.toNat = 0 ∨ op.toNat = 1 ∨ op.toNat = 2 ∨ op.toNat = 3 ∨ op.toNat = 4 ∨ op.toNat = 5 ∨ op.toNat = 6 ∨
    op.toNat = 7 ∨ op.toNat = 8 ∨ op.toNat = 9 := by omega
  simp only [← BitVec.toNat_inj]
  rcases this with h | h | h | h | h | h | h | h | h | h
  exacts [⟨.nop, h⟩, ⟨.clmul 0 0, h⟩, ⟨.pmod 0, h⟩, ⟨.gfmul 0 0, h⟩, ⟨.invgen, h⟩, ⟨.irrscan, h⟩, ⟨.affine 0, h⟩,
    ⟨.afftab false, h⟩, ⟨.linan, h⟩, ⟨.sort, h⟩]

/-- A word with a command's opcode decodes to that command's row when it is legal (30_encoding.md R96, R98). -/
theorem decode_of_opcode (h : fieldOp w = i.opcode) : decode w = decodeAs (legal w) (i.readFrom w) := by
  rw [decode, legal, h]
  cases i <;> rfl

/-- A word with a reserved opcode is refused as such (30_encoding.md R95). -/
theorem decode_of_reserved (h : 10 ≤ (fieldOp w).toNat) : decode w = .error .reservedOpcode ∧ legal w = false := by
  have hlt := (fieldOp w).isLt
  rw [decode, legal]
  generalize (fieldOp w).toNat = op at h hlt
  interval_cases op <;> exact ⟨rfl, rfl⟩

/-- Settles O3: opcode by opcode, the format's must-be-zero bits as numbers. -/
theorem legalWordsInNumbers : Obligations.LegalWordsInNumbers := by
  intro w
  by_cases h : (fieldOp w).toNat < 10
  · obtain ⟨i, hi⟩ := exists_opcode_eq h
    rw [legal, hi]
    rw [fieldOp_eq_iff] at hi
    cases i <;> simp only [Instr.opcode, BitVec.toNat_ofNat] at hi
    case nop | invgen | irrscan | linan | sort => exact fmtN_iff.trans (by omega)
    case clmul | pmod | gfmul => exact fmtAB_iff.trans (by omega)
    case affine => exact fmtX_iff.trans (by omega)
    case afftab => exact fmtR_iff.trans (by omega)
  · obtain ⟨-, hl⟩ := decode_of_reserved (not_lt.1 h)
    rw [toNat_fieldOp] at h
    rw [hl, Bool.false_eq_true, false_iff]
    omega

/-- The decoder's three answers: a reserved opcode, a must-be-zero bit, or the command of a legal word. -/
theorem decode_cases (w : Word) :
    (10 ≤ w.toNat % 16 ∧ legal w = false ∧ decode w = .error .reservedOpcode) ∨
    (w.toNat % 16 < 10 ∧ legal w = false ∧ decode w = .error .mustBeZero) ∨
    (w.toNat % 16 < 10 ∧ legal w = true ∧ ∃ i : Instr, fieldOp w = i.opcode ∧ decode w = .ok (i.readFrom w)) := by
  rw [← toNat_fieldOp]
  by_cases h : (fieldOp w).toNat < 10
  · obtain ⟨i, hi⟩ := exists_opcode_eq h
    have hd := decode_of_opcode hi
    cases hl : legal w <;> rw [hl] at hd
    · exact .inr (.inl ⟨h, rfl, hd⟩)
    · exact .inr (.inr ⟨h, rfl, i, hi, hd⟩)
  · obtain ⟨hd, hl⟩ := decode_of_reserved (not_lt.1 h)
    exact .inl ⟨not_lt.1 h, hl, hd⟩

/-- Settles O4, by `decode_cases`. -/
theorem decoderRefusesByName : Obligations.DecoderRefusesByName := by
  intro w
  rcases decode_cases w with ⟨hop, hl, hd⟩ | ⟨hop, hl, hd⟩ | ⟨hop, hl, i, -, hd⟩ <;> rw [hd, hl]
  · exact ⟨iff_of_false nofun nofun, iff_of_true rfl hop, iff_of_false nofun fun ⟨h, _⟩ => by omega⟩
  · exact ⟨iff_of_false nofun nofun, iff_of_false nofun (by omega), iff_of_true rfl ⟨hop, rfl⟩⟩
  · exact ⟨iff_of_true ⟨_, rfl⟩ rfl, iff_of_false nofun (by omega), iff_of_false nofun nofun⟩

/-- Settles O6, word by word. -/
theorem specWordsDecode : Obligations.SpecWordsDecode := by
  refine ⟨?_, ?_, ?_, ?_, ?_, ?_, ?_, ?_, ?_, ?_, ?_, ?_⟩ <;> decide

/-! ## The encoder in numbers -/

theorem toNat_append_eq_add {m n : Nat} (x : BitVec m) (y : BitVec n) :
    (x ++ y).toNat = x.toNat * 2 ^ n + y.toNat := by
  rw [BitVec.toNat_append, ← Nat.shiftLeft_add_eq_or_of_lt y.isLt, Nat.shiftLeft_eq]

/-- The operands of a command's word, as the number that stands above its opcode. -/
def Instr.payload : Instr → Nat
  | .clmul a b => 16 * a.toNat + 4096 * b.toNat
  | .pmod p => 16 * p.toNat
  | .gfmul a b => 16 * a.toNat + 4096 * b.toNat
  | .affine x => 16 * x.toNat
  | .afftab raw => raw.toNat
  | .nop => 0
  | .invgen => 0
  | .irrscan => 0
  | .linan => 0
  | .sort => 0

/-- The word of a command: its operands over its opcode. -/
theorem toNat_encode (i : Instr) : (encode i).toNat = 16 * i.payload + i.opcode.toNat := by
  cases i <;> simp only [encode, wordAB, Instr.payload, Instr.opcode, toNat_append_eq_add, BitVec.toNat_ofNat,
    BitVec.toNat_ofBool] <;> omega

/-- The fields of a command's word are its operands. -/
theorem readFrom_encode (i : Instr) : i.readFrom (encode i) = i := by
  cases i with
  | nop | invgen | irrscan | linan | sort => rfl
  | clmul | gfmul | pmod | affine =>
    rw [Instr.readFrom]
    congr 1 <;> apply BitVec.eq_of_toNat_eq <;>
      simp only [toNat_fieldA, toNat_fieldB, toNat_fieldP, toNat_encode, Instr.payload, Instr.opcode,
        BitVec.toNat_ofNat] <;> omega
  | afftab raw => cases raw <;> rfl

/-- A legal word has no bit that its opcode and operands do not give. -/
theorem encode_readFrom (h : fieldOp w = i.opcode) (hl : legal w = true) : encode (i.readFrom w) = w := by
  have hw := (legalWordsInNumbers w).1 hl
  rw [fieldOp_eq_iff] at h
  apply BitVec.eq_of_toNat_eq
  rw [toNat_encode, Instr.opcode_readFrom]
  cases i <;> simp only [Instr.opcode, Instr.readFrom, Instr.payload, toNat_fieldA, toNat_fieldB, toNat_fieldP,
    toNat_fieldRaw, BitVec.toNat_ofNat] at h ⊢ <;> omega

/-- The family's lemmas of the commands in one: operands that fit, the opcode, a legal word. -/
theorem encodingLegal (i : Instr) : Laws.EncodingLegal.Statement i := by
  cases i with
  | nop => exact Laws.EncodingLegal.nop
  | clmul a b => exact Laws.EncodingLegal.clmul a b
  | pmod p => exact Laws.EncodingLegal.pmod p
  | gfmul a b => exact Laws.EncodingLegal.gfmul a b
  | invgen => exact Laws.EncodingLegal.invgen
  | irrscan => exact Laws.EncodingLegal.irrscan
  | affine x => exact Laws.EncodingLegal.affine x
  | afftab raw => exact Laws.EncodingLegal.afftab raw
  | linan => exact Laws.EncodingLegal.linan
  | sort => exact Laws.EncodingLegal.sort

/-- Settles O1: the word of `i` is legal, carries `i`'s opcode, and its fields are `i`'s operands. -/
theorem decodeOfEncode : Obligations.DecodeOfEncode := by
  intro i _
  obtain ⟨-, hop, hleg⟩ := encodingLegal i
  rw [decode_of_opcode hop, hleg, readFrom_encode]
  rfl

/-- Settles O2: the one answer of `decode_cases` that is a command encodes to the word. -/
theorem encodeOfDecode : Obligations.EncodeOfDecode := by
  intro w i h
  rcases decode_cases w with ⟨-, -, hd⟩ | ⟨-, -, hd⟩ | ⟨-, hl, j, hj, hd⟩ <;> rw [hd] at h <;> cases h
  exact encode_readFrom hj hl

/-! ## The rows of opcode_table.json -/

/-- A mask that drops the operands from a word laid out as a format says (30_encoding.md R92). -/
theorem append_and_mask {m n : Nat} (hi : BitVec m) (operands : BitVec n) (lo op : BitVec 4) :
    (hi ++ operands ++ lo ++ op) &&& (BitVec.allOnes m ++ 0#n ++ BitVec.allOnes 4 ++ BitVec.allOnes 4) =
      hi ++ 0#n ++ lo ++ op := by
  simp only [BitVec.and_append, BitVec.and_allOnes, BitVec.and_zero]

/-- A command's word has the bits its row fixes. -/
theorem encode_and_tableMask (i : Instr) : encode i &&& i.tableMask = i.tableMatch := by
  cases i with
  | nop | invgen | irrscan | linan | sort => decide
  | clmul a b | gfmul a b =>
    rw [encode, Laws.EncodingLegal.wordAB_eq]
    exact append_and_mask 0#8 (b ++ a) 0#4 _
  | pmod p => exact append_and_mask 0#8 p 0#4 _
  | affine x => exact append_and_mask 0#16 x 0#4 _
  | afftab raw => cases raw <;> decide

/-- Bits that a row fixes are those of its match. -/
theorem extractLsb'_of_and_eq {m v : Word} (h : w &&& m = v) {k n : Nat} (hm : m.extractLsb' k n = BitVec.allOnes n) :
    w.extractLsb' k n = v.extractLsb' k n := by
  rw [← h, BitVec.extractLsb'_and, hm, BitVec.and_allOnes]

/-- A word that matches a command's row has the command's opcode and the must-be-zero bits of its format. -/
theorem legal_of_row (h : w &&& i.tableMask = i.tableMatch) : fieldOp w = i.opcode ∧ legal w = true := by
  have hop : fieldOp w = i.opcode := by
    cases i <;> rw [Instr.tableMask, Instr.tableMatch] at h <;> exact extractLsb'_of_and_eq h rfl
  refine ⟨hop, ?_⟩
  rw [legal, hop]
  cases i <;> rw [Instr.tableMask, Instr.tableMatch] at h
  case nop | invgen | irrscan | linan | sort | afftab => exact beq_iff_eq.2 (extractLsb'_of_and_eq h rfl)
  case clmul | gfmul | pmod | affine =>
    exact Bool.and_eq_true_iff.2
      ⟨beq_iff_eq.2 (extractLsb'_of_and_eq h rfl), beq_iff_eq.2 (extractLsb'_of_and_eq h rfl)⟩

/-- Settles O5: a decoded word is its command's, and a word that matches a row is legal with the row's opcode. -/
theorem opcodeTableRows : Obligations.OpcodeTableRows := by
  refine ⟨fun w i h => ?_, fun w i h => ?_⟩
  · rw [← encodeOfDecode w i h]
    exact encode_and_tableMask i
  · obtain ⟨hop, hl⟩ := legal_of_row h
    refine ⟨i.readFrom w, ?_, Instr.opcode_readFrom⟩
    rw [decode_of_opcode hop, hl]
    rfl

/-! ## The assembler (30_encoding.md R105) -/

theorem exists_assemble_iff {c : Source} : (∃ i, c.assemble = some i) ↔ c.wf = true := by
  rw [Source.assemble]
  cases c.wf <;> simp

theorem toInstr_source (i : Instr) : i.source.toInstr = i := by
  cases i <;> simp only [Instr.source, Source.toInstr, BitVec.ofNat_toNat, BitVec.setWidth_eq]

/-- Settles O7: a statement assembles when its check passes, and a command's operands pass it by their width. -/
theorem assemblerTakesFittingOperands : Obligations.AssemblerTakesFittingOperands := by
  refine ⟨fun a b => ?_, fun a b => ?_, fun p => ?_, fun x => ?_, fun i => ?_⟩
  · rw [exists_assemble_iff, Source.wf, Bool.and_eq_true, decide_eq_true_iff, decide_eq_true_iff]
    omega
  · rw [exists_assemble_iff, Source.wf, Bool.and_eq_true, decide_eq_true_iff, decide_eq_true_iff]
    omega
  · rw [exists_assemble_iff, Source.wf, decide_eq_true_iff]
    omega
  · rw [exists_assemble_iff, Source.wf, decide_eq_true_iff]
    omega
  · obtain ⟨hwf, -, -⟩ := encodingLegal i
    rw [Source.assemble, if_pos hwf, toInstr_source]

end Sys2Proof

/-! PROOFS. The life of a command: its issue (O55), its completion (O8, O10), that no step of the invariant stops (O11),
and that a poll outlasts it (O42). -/

namespace Sys2Proof.Machine

variable {s : State} {w : Word} {rest : List HostEvent}

/-! ## Issue (30_encoding.md R102) -/

theorem issue_of_illegal (hidle : s.busy = false) (hl : legal w = false) : issue w s = raise .illop s := by
  rw [issue, hidle, hl]
  rfl

/-- AFFTAB needs all of INV, LINAN all of SBOX. -/
theorem issue_of_incomplete (hidle : s.busy = false) (hl : legal w = true)
    (h : (fieldOp w = 0x7#4 ∧ invFull s = false) ∨ (fieldOp w = 0x8#4 ∧ sbFull s = false)) :
    issue w s = raise .incompl s := by
  rcases h with ⟨hop, hf⟩ | ⟨hop, hf⟩ <;> rw [issue, hidle, hl, hop, hf] <;> rfl

theorem issue_of_complete (hidle : s.busy = false) (hl : legal w = true) (h7 : fieldOp w = 0x7#4 → invFull s = true)
    (h8 : fieldOp w = 0x8#4 → sbFull s = true) : issue w s = accept w s := by
  rw [issue, hidle, hl, if_neg (by decide), if_neg (by decide), if_neg (by simpa using h7), if_neg (by simpa using h8)]

/-- The step of a write to CMD is a command issue. -/
theorem step_write_cmd (ht : s.HostTurn (.write 0x00000#17 w) rest) : step s = .next (issue w (s.popped rest)) := by
  rw [step_write ht, hostWrite_of_reg (r := .cmd) rfl, writeReg]

/-- Settles O55, one law of `issue` a branch. -/
theorem commandIssue : Obligations.CommandIssue := by
  intro s w rest ht
  have hs := step_write_cmd ht
  refine ⟨fun hbusy => ?_, fun hidle hl => ?_, fun hidle hl hop hf => ?_, fun hidle hl hop hf => ?_,
    fun hidle hl h7 h8 => ?_⟩
  · exact ⟨_, busyWritesAreDropped s _ w rest hbusy ht (.inl rfl)⟩
  · rw [issue_of_illegal (s := s.popped rest) hidle hl] at hs
    exact ⟨_, hs⟩
  · rw [issue_of_incomplete (s := s.popped rest) hidle hl (.inl ⟨fieldOp_eq_iff.2 hop, beq_eq_false_iff_ne.2 hf⟩)] at hs
    exact ⟨_, hs⟩
  · rw [issue_of_incomplete (s := s.popped rest) hidle hl (.inr ⟨fieldOp_eq_iff.2 hop, beq_eq_false_iff_ne.2 hf⟩)] at hs
    exact ⟨_, hs⟩
  · rw [issue_of_complete (s := s.popped rest) hidle hl (fun hop => beq_iff_eq.2 (h7 (fieldOp_eq_iff.1 hop)))
      (fun hop => beq_iff_eq.2 (h8 (fieldOp_eq_iff.1 hop)))] at hs
    exact ⟨_, _, hs⟩

/-! ## Completion (30_encoding.md R104) -/

theorem tableWord_toNat (w : Word) : tableWord 32 w.toNat = w := by
  rw [tableWord, Nat.mod_eq_of_lt w.isLt, BitVec.ofNat_toNat, BitVec.setWidth_eq]

/-- Settles O8: a completion runs the decoded command, and a command's word decodes to it. -/
theorem stepRunsLatchedCommand : Obligations.StepRunsLatchedCommand := by
  refine ⟨fun s t i hc ht => step_of_coreTurn hc ht, fun s i hwf => ?_⟩
  rw [State.withFetchWord, tableWord_toNat]
  exact ⟨rfl, rfl, decodeOfEncode i hwf⟩

/-- Settles O10: every command has a next state, and changes nothing of the handshake itself. -/
theorem completionEndsHandshake : Obligations.CompletionEndsHandshake := by
  intro s i hc
  obtain ⟨u, hu⟩ := exec_next i s
  obtain ⟨-, -, herr, hie, hpoly, hlcmd, hhost, hrdata, -, hresets⟩ := exec_keeps hu
  exact ⟨finish u, step_of_coreTurn hc hu, rfl, rfl, herr, hie, hpoly, hlcmd, hhost, hrdata, hresets⟩

/-- The CORE's turn for a legal latched word. -/
theorem exists_coreTurn (hc : coreMoves s = true) (hl : legal s.lcmd = true) : ∃ i, s.CoreTurn i := by
  obtain ⟨i, hi⟩ := decode_of_legal hl
  exact ⟨i, hc, hi⟩

/-- Settles O11: an executing command is legal, so its completion has a next state; a turn of the host always has one. -/
theorem invariantStepNeverStops : Obligations.InvariantStepNeverStops := by
  intro s hs
  cases hc : coreMoves s with
  | false => exact ⟨hostStep s, by rw [step, hc, if_neg (by decide)]⟩
  | true =>
    obtain ⟨hbusy, -⟩ := coreMoves_eq_true_iff.1 hc
    obtain ⟨i, hi⟩ := exists_coreTurn hc (hs.busyLegal hbusy)
    obtain ⟨t, ht, -⟩ := completionEndsHandshake s i hi
    exact ⟨t, ht⟩

/-! ## Polls (30_encoding.md R106) -/

/-- The step of a poll: it reads STATUS and stays while the word says BUSY. -/
theorem step_poll (ht : s.HostTurn .poll rest) :
    step s = .next { s with
      rdata := statusWord s, host := if s.busy then .poll :: rest else rest, wait := s.wait - 1 } := by
  rw [step_of_hostTurn ht, hostEvent_poll]
  rfl

/-- A poll that meets an idle core is over after its step. -/
theorem poll_of_idle (hidle : s.busy = false) (hh : s.host = .poll :: rest) :
    ∃ t, StepsTo 1 s t ∧ t.host = rest ∧ t.busy = false ∧ t.rdata.getLsbD 0 = false := by
  refine ⟨_, ⟨_, step_poll (hostTurn_of_idle hidle hh), rfl⟩, by rw [hidle]; rfl, hidle, ?_⟩
  rw [getLsbD_statusWord]
  exact hidle

/-- A poll that goes before the completion only reads STATUS and is counted. -/
theorem step_poll_of_pending {n : Nat} (hbusy : s.busy = true) (hw : s.wait = n + 1) (hh : s.host = .poll :: rest) :
    step s = .next { s with rdata := statusWord s, wait := n } := by
  have hc : coreMoves s = false := by simp [coreMoves, hw, hh]
  rw [step_poll ⟨hh, hc⟩, hw, if_pos hbusy, ← hh]
  rfl

/-- A poll that meets a legal executing command: a turn for each event that goes before the completion, the completion,
and the turn that finds BUSY = 0. -/
theorem poll_of_busy (hbusy : s.busy = true) (hl : legal s.lcmd = true) (hh : s.host = .poll :: rest) :
    ∃ t, StepsTo (s.wait + 2) s t ∧ t.host = rest ∧ t.busy = false ∧ t.rdata.getLsbD 0 = false := by
  induction hw : s.wait generalizing s with
  | zero =>
    obtain ⟨i, hi⟩ := exists_coreTurn (coreMoves_eq_true_iff.2 ⟨hbusy, .inl hw⟩) hl
    obtain ⟨u, hu, hidle, -, -, -, -, -, hhost, -⟩ := completionEndsHandshake s i hi
    obtain ⟨t, hst, ht⟩ := poll_of_idle hidle (hhost.trans hh)
    exact ⟨t, ⟨u, hu, hst⟩, ht⟩
  | succ n ih =>
    obtain ⟨t, hst, ht⟩ := ih (s := { s with rdata := statusWord s, wait := n }) hbusy hl hh rfl
    exact ⟨t, ⟨_, step_poll_of_pending hbusy hw hh, hst⟩, ht⟩

/-- Settles O42, by `poll_of_idle` and `poll_of_busy`. -/
theorem pollEndsIdle : Obligations.PollEndsIdle := by
  intro s rest hh hl
  cases hb : s.busy with
  | false =>
    obtain ⟨t, hst, ht⟩ := poll_of_idle hb hh
    exact ⟨1, t, by omega, hst, ht⟩
  | true =>
    obtain ⟨t, hst, ht⟩ := poll_of_busy hb (hl hb) hh
    exact ⟨s.wait + 2, t, le_rfl, hst, ht⟩

end Sys2Proof.Machine

/-! PROOFS. Field arithmetic (40_field_arith.md): the carryless product is the biadditive function that takes a power of
x to a shift (O15, O16); the reducer is additive, keeps bytes and takes the multiples of POLY to 0, so it answers the
one remainder (O17 to O20). -/

namespace Sys2Proof.Machine

variable {w : Nat}

/-! ## Polynomials over GF(2) -/

/-- What holds of 0 and of the powers of x, and is kept by addition, holds of every polynomial. -/
theorem xor_induction {P : BitVec w → Prop} (zero : P 0#w) (twoPow : ∀ k < w, P (BitVec.twoPow w k))
    (xor : ∀ u v, P u → P v → P (u ^^^ v)) (v : BitVec w) : P v := by
  have low : ∀ n ≤ w, P ((v.setWidth n).setWidth w) := by
    intro n hn
    induction n with
    | zero => rwa [show (v.setWidth 0).setWidth w = 0#w by ext; simp]
    | succ n ih =>
      replace ih := ih (by omega)
      cases h : v.getLsbD n with
      | false => rwa [BitVec.setWidth_setWidth_succ_eq_setWidth_setWidth_of_getLsbD_false h]
      | true =>
        have hor : (v.setWidth n).setWidth w ||| BitVec.twoPow w n =
            (v.setWidth n).setWidth w ^^^ BitVec.twoPow w n := by
          ext i hi
          by_cases hin : i = n <;> simp [BitVec.getElem_twoPow, hin]
        rw [BitVec.setWidth_setWidth_succ_eq_setWidth_setWidth_or_twoPow_of_getLsbD_true h, hor]
        exact xor _ _ ih (twoPow n (by omega))
  simpa using low w le_rfl

/-- A step of the loops of R120 and R123: x is added to t when the bit c is set. -/
def addIf (c : Bool) (x t : Product) : Product := if c then t ^^^ x else t

theorem getLsbD_addIf (c : Bool) (x t : Product) (k : Nat) :
    (addIf c x t).getLsbD k = (t.getLsbD k ^^ (c && x.getLsbD k)) := by
  cases c <;> simp [addIf]

/-- A step is additive in its bit; bit by bit that is an identity of Booleans. -/
theorem addIf_xor_bit (c d : Bool) (x t u : Product) : addIf (c ^^ d) x (t ^^^ u) = addIf c x t ^^^ addIf d x u := by
  have bits : ∀ c d x t u : Bool, ((t ^^ u) ^^ ((c ^^ d) && x)) = ((t ^^ (c && x)) ^^ (u ^^ (d && x))) := by decide
  apply BitVec.eq_of_getLsbD_eq
  intro k _
  simp only [getLsbD_addIf, BitVec.getLsbD_xor, bits]

/-- A step is additive in its addend. -/
theorem addIf_xor_addend (c : Bool) (x y t u : Product) :
    addIf c (x ^^^ y) (t ^^^ u) = addIf c x t ^^^ addIf c y u := by
  have bits : ∀ c x y t u : Bool, ((t ^^ u) ^^ (c && (x ^^ y))) = ((t ^^ (c && x)) ^^ (u ^^ (c && y))) := by decide
  apply BitVec.eq_of_getLsbD_eq
  intro k _
  simp only [getLsbD_addIf, BitVec.getLsbD_xor, bits]

/-! ## The product (R120) -/

/-- The product after the first n steps of its loop. -/
def clmulUpTo (a b : Byte) : Nat → Product
  | 0 => 0#16
  | n + 1 => addIf (b.getLsbD n) (a.setWidth 16 <<< n) (clmulUpTo a b n)

theorem clmul_eq_clmulUpTo (a b : Byte) : clmul a b = clmulUpTo a b 8 := (rfl)

theorem clmul_xor (a b c : Byte) : clmul a (b ^^^ c) = clmul a b ^^^ clmul a c := by
  have upTo (n : Nat) : clmulUpTo a (b ^^^ c) n = clmulUpTo a b n ^^^ clmulUpTo a c n := by
    induction n with
    | zero => exact BitVec.xor_self.symm
    | succ n ih => rw [clmulUpTo, ih, BitVec.getLsbD_xor, addIf_xor_bit, clmulUpTo, clmulUpTo]
  simp only [clmul_eq_clmulUpTo, upTo]

theorem xor_clmul (a b c : Byte) : clmul (a ^^^ b) c = clmul a c ^^^ clmul b c := by
  have upTo (n : Nat) : clmulUpTo (a ^^^ b) c n = clmulUpTo a c n ^^^ clmulUpTo b c n := by
    induction n with
    | zero => exact BitVec.xor_self.symm
    | succ n ih =>
      rw [clmulUpTo, ih, BitVec.setWidth_xor, BitVec.shiftLeft_xor_distrib, addIf_xor_addend, clmulUpTo, clmulUpTo]
  simp only [clmul_eq_clmulUpTo, upTo]

@[simp] theorem clmul_zero (a : Byte) : clmul a 0#8 = 0#16 := by
  simpa using clmul_xor a 0#8 0#8

@[simp] theorem zero_clmul (b : Byte) : clmul 0#8 b = 0#16 := by
  simpa using xor_clmul 0#8 0#8 b

/-- A power of x as the second factor selects one step. -/
theorem clmul_twoPow (a : Byte) {k : Nat} (hk : k < 8) : clmul a (BitVec.twoPow 8 k) = a.setWidth 16 <<< k := by
  have upTo (n : Nat) : clmulUpTo a (BitVec.twoPow 8 k) n = if k < n then a.setWidth 16 <<< k else 0#16 := by
    induction n with
    | zero => rfl
    | succ n ih =>
      rw [clmulUpTo, ih, BitVec.getLsbD_twoPow, addIf]
      rcases Nat.lt_trichotomy k n with h | rfl | h
      · simp [h, h.ne, Nat.lt_succ_of_lt h]
      · simp [hk]
      · simp [h.ne', show ¬ k < n by omega, show ¬ k < n + 1 by omega]
  rw [clmul_eq_clmulUpTo, upTo, if_pos hk]

/-- By additivity, since two powers of x commute. -/
theorem twoPow_clmul (b : Byte) {k : Nat} (hk : k < 8) : clmul (BitVec.twoPow 8 k) b = b.setWidth 16 <<< k := by
  induction b using xor_induction with
  | zero => simp
  | twoPow j hj =>
    have powers : ∀ j < 8, ∀ k < 8,
        (BitVec.twoPow 8 k).setWidth 16 <<< j = (BitVec.twoPow 8 j).setWidth 16 <<< k := by decide
    rw [clmul_twoPow _ hj, powers j hj k hk]
  | xor b c hb hc => rw [clmul_xor, hb, hc, BitVec.setWidth_xor, BitVec.shiftLeft_xor_distrib]

theorem clmul_comm (a b : Byte) : clmul a b = clmul b a := by
  induction b using xor_induction with
  | zero => simp
  | twoPow k hk => rw [clmul_twoPow a hk, twoPow_clmul a hk]
  | xor b c hb hc => rw [clmul_xor, xor_clmul, hb, hc]

theorem one_clmul (b : Byte) : clmul 0x01#8 b = b.setWidth 16 :=
  (twoPow_clmul b (k := 0) (by decide)).trans (BitVec.shiftLeft_zero _)

theorem toNat_clmul_le (a b : Byte) : (clmul a b).toNat ≤ 0x7FFF := by
  have h := BitVec.msb_eq_false_iff_two_mul_lt.1 ((BitVec.msb_eq_getLsbD_last _).trans (getLsbD_clmul_fifteen a b))
  omega

/-! ## The product as parities of bit pairs -/

/-- At most one j has i + j = k. -/
theorem countP_range_add_eq (f : Nat → Bool) (i k n : Nat) :
    (List.range n).countP (fun j => decide (i + j = k) && f j) =
      if i ≤ k ∧ k < i + n then (f (k - i)).toNat else 0 := by
  induction n with
  | zero => simp
  | succ n ih =>
    rw [List.range_succ, List.countP_append, ih, List.countP_singleton]
    rcases Nat.lt_trichotomy (i + n) k with h | rfl | h
    · simp [h.ne, show ¬ k < i + n by omega, show ¬ k < i + (n + 1) by omega]
    · cases hf : f n <;> simp [hf]
    · simp [h.ne', h, show k < i + (n + 1) by omega]

/-- The pairs (i, j) with i < n, j < 8, i + j = k and both bits set (R120). -/
def countPairs (a b : Byte) (k n : Nat) : Nat :=
  ((List.range n).flatMap fun i => (List.range 8).map fun j => (i, j)).countP fun c =>
    decide (c.1 + c.2 = k) && (a.getLsbD c.1 && b.getLsbD c.2)

/-- Row i of the pairs is bit k of the addend for bit i of a. -/
theorem countPairs_succ (a b : Byte) {k : Nat} (hk : k < 16) (n : Nat) :
    countPairs a b k (n + 1) = countPairs a b k n + (a.getLsbD n && (b.setWidth 16 <<< n).getLsbD k).toNat := by
  rw [countPairs, List.range_succ (n := n), List.flatMap_append, List.countP_append, ← countPairs,
    List.flatMap_singleton, List.countP_map]
  congr 1
  refine (countP_range_add_eq (fun j => a.getLsbD n && b.getLsbD j) n k 8).trans ?_
  rw [BitVec.getLsbD_shiftLeft, BitVec.getLsbD_setWidth]
  split
  case isTrue h => simp [hk, show k - n < 16 by omega, show ¬ k < n by omega]
  case isFalse h =>
    by_cases hn : n ≤ k
    · simp [BitVec.getLsbD_of_ge b (k - n) (by omega)]
    · simp [show k < n by omega]

theorem decide_odd_add_toNat (m : Nat) (c : Bool) :
    decide ((m + c.toNat) % 2 = 1) = (decide (m % 2 = 1) ^^ c) := by
  rcases Nat.mod_two_eq_zero_or_one m with h | h <;> cases c <;> simp [Nat.add_mod, h]

/-- The loop over the bits of the first factor adds one row of pairs a step. -/
theorem getLsbD_clmul (a b : Byte) {k : Nat} (hk : k < 16) :
    (clmul a b).getLsbD k = decide (countPairs a b k 8 % 2 = 1) := by
  have upTo (n : Nat) : (clmulUpTo b a n).getLsbD k = decide (countPairs a b k n % 2 = 1) := by
    induction n with
    | zero => simp [clmulUpTo, countPairs]
    | succ n ih => rw [clmulUpTo, getLsbD_addIf, ih, countPairs_succ a b hk, decide_odd_add_toNat]
  rw [clmul_comm, clmul_eq_clmulUpTo, upTo]

/-! ## The reducer (R123, R124) -/

/-- The last n steps of the division, at the positions n + 7 down to 8. -/
def divideFrom (r : Poly) : Nat → Product → Product
  | 0, t => t
  | n + 1, t => divideFrom r n (addIf (t.getLsbD (n + 8)) (r.setWidth 16 <<< n) t)

theorem reduce_eq_divideFrom (p : Product) (r : Poly) : reduce p r = (divideFrom r 8 p).setWidth 8 := (rfl)

theorem divideFrom_xor (r : Poly) (n : Nat) (t u : Product) :
    divideFrom r n (t ^^^ u) = divideFrom r n t ^^^ divideFrom r n u := by
  induction n generalizing t u with
  | zero => rfl
  | succ n ih => rw [divideFrom, BitVec.getLsbD_xor, addIf_xor_bit, ih, divideFrom, divideFrom]

theorem reduce_xor (p q : Product) (r : Poly) : reduce (p ^^^ q) r = reduce p r ^^^ reduce q r := by
  rw [reduce_eq_divideFrom, divideFrom_xor, BitVec.setWidth_xor, reduce_eq_divideFrom, reduce_eq_divideFrom]

/-- A step at a position whose bit is clear does nothing. -/
theorem divideFrom_succ_of_clear {r : Poly} {n : Nat} {t : Product} (h : t.getLsbD (n + 8) = false) :
    divideFrom r (n + 1) t = divideFrom r n t := by
  rw [divideFrom, h]
  rfl

theorem divideFrom_setWidth (r : Poly) (n : Nat) (v : Byte) : divideFrom r n (v.setWidth 16) = v.setWidth 16 := by
  induction n with
  | zero => rfl
  | succ n ih => rw [divideFrom_succ_of_clear (by simp), ih]

/-- A byte is its own remainder. -/
@[simp] theorem reduce_setWidth (v : Byte) (r : Poly) : reduce (v.setWidth 16) r = v := by
  rw [reduce_eq_divideFrom, divideFrom_setWidth]
  simp

theorem setWidth_setWidth_of_lt {p : Product} (h : p.toNat < 0x100) : (p.setWidth 8).setWidth 16 = p := by
  bv_omega

section Monic

variable {r : Poly} (hr : r.getLsbD 8 = true)

include hr

/-- The division leaves nothing from position 8 on. -/
theorem getLsbD_divideFrom {n : Nat} {t : Product} (h : ∀ k ≥ n + 8, t.getLsbD k = false) {k : Nat} (hk : 8 ≤ k) :
    (divideFrom r n t).getLsbD k = false := by
  induction n generalizing t with
  | zero => exact h k (by omega)
  | succ n ih =>
    refine ih fun m hm => ?_
    rw [getLsbD_addIf]
    rcases hm.eq_or_lt with rfl | hlt
    · cases ht : t.getLsbD (n + 8) with
      | false => simp
      | true =>
        have hn : n + 8 < 16 := BitVec.lt_of_getLsbD ht
        simp [hr, hn]
    · simp [h m (by omega), BitVec.getLsbD_of_ge r (m - n) (by omega)]

theorem setWidth_reduce (p : Product) : (reduce p r).setWidth 16 = divideFrom r 8 p := by
  apply BitVec.eq_of_getLsbD_eq
  intro k hk
  rw [reduce_eq_divideFrom, BitVec.getLsbD_setWidth, BitVec.getLsbD_setWidth]
  by_cases h8 : k < 8
  · simp [h8, hk]
  · rw [getLsbD_divideFrom hr (fun m hm => BitVec.getLsbD_of_ge p m hm) (by omega)]
    simp

/-- The polynomial itself, aligned at a position that the division reaches, is cleared there. -/
theorem divideFrom_shiftLeft {k n : Nat} (hk : k < n) (hn : n ≤ 8) : divideFrom r n (r.setWidth 16 <<< k) = 0#16 := by
  induction n with
  | zero => omega
  | succ n ih =>
    rcases Nat.lt_succ_iff_lt_or_eq.1 hk with hlt | rfl
    · rw [divideFrom_succ_of_clear, ih hlt (by omega)]
      simp [BitVec.getLsbD_of_ge r (n + 8 - k) (by omega)]
    · have htop : (r.setWidth 16 <<< k).getLsbD (k + 8) = true := by simp [hr, show k + 8 < 16 by omega]
      rw [divideFrom, htop, addIf, if_pos rfl, BitVec.xor_self]
      exact divideFrom_setWidth r k 0#8

theorem reduce_shiftLeft {k : Nat} (hk : k < 8) : reduce (r.setWidth 16 <<< k) r = 0#8 := by
  rw [reduce_eq_divideFrom, divideFrom_shiftLeft hr hk le_rfl]
  rfl

end Monic

/-! ## The multiples of x^8 + low -/

theorem getLsbD_monic (low : Byte) : (1#1 ++ low : Poly).getLsbD 8 = true := by
  rw [BitVec.getLsbD_append]
  rfl

theorem setWidth_monic (low : Byte) : (1#1 ++ low : Poly).setWidth 16 = BitVec.twoPow 16 8 ^^^ low.setWidth 16 := by
  apply BitVec.eq_of_getLsbD_eq
  intro k hk
  rw [BitVec.getLsbD_setWidth, BitVec.getLsbD_append, BitVec.getLsbD_xor, BitVec.getLsbD_twoPow,
    BitVec.getLsbD_setWidth]
  rcases Nat.lt_trichotomy k 8 with h | rfl | h
  · simp [h, hk, h.ne']
  · simp
  · simp [hk, h.ne, show ¬ k < 8 by omega, show k - 8 ≠ 0 by omega, BitVec.getLsbD_of_ge low k (by omega)]

/-- q * (x^8 + low) over GF(2). -/
def polyMultiple (low q : Byte) : Product := (q.setWidth 16 <<< 8) ^^^ clmul q low

@[simp] theorem polyMultiple_zero (low : Byte) : polyMultiple low 0#8 = 0#16 := by simp [polyMultiple]

theorem polyMultiple_xor (low q u : Byte) :
    polyMultiple low (q ^^^ u) = polyMultiple low q ^^^ polyMultiple low u := by
  simp only [polyMultiple, xor_clmul, BitVec.setWidth_xor, BitVec.shiftLeft_xor_distrib]
  ac_rfl

theorem polyMultiple_twoPow (low : Byte) {k : Nat} (hk : k < 8) :
    polyMultiple low (BitVec.twoPow 8 k) = (1#1 ++ low : Poly).setWidth 16 <<< k := by
  have top : ∀ k < 8, (BitVec.twoPow 8 k).setWidth 16 <<< 8 = BitVec.twoPow 16 8 <<< k := by decide
  rw [polyMultiple, twoPow_clmul _ hk, top k hk, setWidth_monic, BitVec.shiftLeft_xor_distrib]

theorem reduce_polyMultiple (low q : Byte) : reduce (polyMultiple low q) (1#1 ++ low) = 0#8 := by
  induction q using xor_induction with
  | zero => exact (congrArg (reduce · _) (polyMultiple_zero low)).trans (reduce_setWidth 0#8 _)
  | twoPow k hk => rw [polyMultiple_twoPow low hk, reduce_shiftLeft (getLsbD_monic low) hk]
  | xor q u hq hu => rw [polyMultiple_xor, reduce_xor, hq, hu, BitVec.xor_self]

/-- Every step adds a multiple. -/
theorem divideFrom_eq_add_polyMultiple (low : Byte) {n : Nat} (hn : n ≤ 8) (t : Product) :
    ∃ q, t = polyMultiple low q ^^^ divideFrom (1#1 ++ low) n t := by
  induction n generalizing t with
  | zero => exact ⟨0#8, by simp [divideFrom]⟩
  | succ n ih =>
    cases ht : t.getLsbD (n + 8) with
    | false =>
      rw [divideFrom_succ_of_clear ht]
      exact ih (by omega) t
    | true =>
      set m : Product := (1#1 ++ low : Poly).setWidth 16 <<< n with hm
      obtain ⟨q, hq⟩ := ih (by omega) (t ^^^ m)
      refine ⟨q ^^^ BitVec.twoPow 8 n, ?_⟩
      rw [polyMultiple_xor, polyMultiple_twoPow low (by omega), divideFrom, ht, ← hm]
      calc t = (t ^^^ m) ^^^ m := by rw [BitVec.xor_assoc, BitVec.xor_self, BitVec.xor_zero]
        _ = (polyMultiple low q ^^^ divideFrom (1#1 ++ low) n (t ^^^ m)) ^^^ m := congrArg (· ^^^ m) hq
        _ = (polyMultiple low q ^^^ m) ^^^ divideFrom (1#1 ++ low) n (t ^^^ m) := by ac_rfl

/-- Division with remainder by x^8 + low: the reducer answers the one remainder (R124). -/
theorem eq_polyMultiple_xor_reduce (low : Byte) (p : Product) :
    ∃ q, p = polyMultiple low q ^^^ (reduce p (1#1 ++ low)).setWidth 16 := by
  rw [setWidth_reduce (getLsbD_monic low)]
  exact divideFrom_eq_add_polyMultiple low le_rfl p

theorem reduce_polyMultiple_xor (low q v : Byte) :
    reduce (polyMultiple low q ^^^ v.setWidth 16) (1#1 ++ low) = v := by
  rw [reduce_xor, reduce_polyMultiple, reduce_setWidth, BitVec.zero_xor]

/-! ## The commands -/

/-- Settles O14, by the meaning of NOP. -/
theorem nopHasNoEffect : Obligations.NopHasNoEffect := exec_nop

/-- Settles O15, by the parities of the pairs. -/
theorem clmulProductBits : Obligations.ClmulProductBits :=
  fun s a b => ⟨clmul a b, exec_clmul a b s, fun _ hk => getLsbD_clmul a b hk⟩

/-- Settles O16, by the laws of the product. -/
theorem clmulCornerCases : Obligations.ClmulCornerCases := by
  simp only [Obligations.ClmulCornerCases, exec_clmul]
  refine ⟨fun s b => ?_, fun s b => ?_, fun s a b => ?_, fun s a b => ⟨_, rfl, toNat_clmul_le a b⟩, fun s => ?_,
    fun s => ?_⟩
  · rw [zero_clmul]; rfl
  · rw [one_clmul]; rfl
  · rw [clmul_comm]
  · rw [show clmul 0xFF#8 0xFF#8 = 0x5555#16 by decide]; rfl
  · rw [show clmul 0x80#8 0x80#8 = 0x4000#16 by decide]; rfl

/-- Settles O17: the quotient and remainder exist, and the reducer answers v on q * POLY + v. -/
theorem pmodRemainder : Obligations.PmodRemainder := by
  refine fun s p => ⟨?_, fun q v hp => ?_⟩
  · obtain ⟨q, hq⟩ := eq_polyMultiple_xor_reduce s.poly p
    exact ⟨q, _, hq⟩
  · have hv : reduce p (polyReg s) = v := by rw [hp]; exact reduce_polyMultiple_xor s.poly q v
    rw [exec_pmod, hv]
    rfl

/-- Settles O18, by the laws of the reducer; the polynomial is its own multiple by x^0. -/
theorem reduceIsLinear : Obligations.ReduceIsLinear := by
  refine fun p q low => ⟨reduce_xor p q _, fun hp => ?_, ?_⟩
  · rw [← setWidth_setWidth_of_lt hp, reduce_setWidth]
  · have h := reduce_shiftLeft (getLsbD_monic low) (k := 0) (by decide)
    rwa [BitVec.shiftLeft_zero] at h

/-- Settles O19: PMOD overwrites the RESULT of CLMUL, and the product is symmetric. -/
theorem gfmulIsClmulThenPmod : Obligations.GfmulIsClmulThenPmod := by
  refine fun s a b => ⟨_, _, exec_clmul a b s, exec_pmod _ _, rfl, ?_⟩
  rw [exec_gfmul, clmul_comm]
  rfl

/-- Settles O20: GFMUL is PMOD of the product. -/
theorem gfmulRemainderOfProduct : Obligations.GfmulRemainderOfProduct := by
  intro s a b
  obtain ⟨⟨q, v, hp⟩, hexec⟩ := pmodRemainder s (clmul a b)
  exact ⟨v, q, hexec q v hp, hp⟩

end Sys2Proof.Machine

/-! PROOFS. The ring GF(2)[x]/(r) on bytes, and why every byte but 0 has an inverse exactly when r is
irreducible (R153, for O24). -/

namespace Sys2Proof.Machine

/-! ## The product modulo r -/

/-- The product of two bytes modulo r, as GFMUL and the inverse finder compute it (R126, R150). -/
def mulMod (r : Poly) (a b : Byte) : Byte := reduce (clmul a b) r

theorem invertible_iff {r : Poly} {x : Byte} : Invertible r x ↔ ∃ y, mulMod r x y = 0x01#8 := Iff.rfl

theorem mulMod_comm (r : Poly) (a b : Byte) : mulMod r a b = mulMod r b a := by
  rw [mulMod, clmul_comm, mulMod]

theorem mulMod_xor (r : Poly) (a b c : Byte) : mulMod r a (b ^^^ c) = mulMod r a b ^^^ mulMod r a c := by
  rw [mulMod, clmul_xor, reduce_xor, mulMod, mulMod]

theorem xor_mulMod (r : Poly) (a b c : Byte) : mulMod r (a ^^^ b) c = mulMod r a c ^^^ mulMod r b c := by
  rw [mulMod, xor_clmul, reduce_xor, mulMod, mulMod]

@[simp] theorem one_mulMod (r : Poly) (b : Byte) : mulMod r 0x01#8 b = b := by
  rw [mulMod, one_clmul, reduce_setWidth]

@[simp] theorem mulMod_one (r : Poly) (a : Byte) : mulMod r a 0x01#8 = a := by
  rw [mulMod_comm, one_mulMod]

@[simp] theorem zero_mulMod (r : Poly) (b : Byte) : mulMod r 0x00#8 b = 0x00#8 := by
  simpa using xor_mulMod r 0x00#8 0x00#8 b

@[simp] theorem mulMod_zero (r : Poly) (a : Byte) : mulMod r a 0x00#8 = 0x00#8 := by
  rw [mulMod_comm, zero_mulMod]

theorem twoPow_mulMod (r : Poly) (b : Byte) {k : Nat} (hk : k < 8) :
    mulMod r (BitVec.twoPow 8 k) b = reduce (b.setWidth 16 <<< k) r := by
  rw [mulMod, twoPow_clmul b hk]

section Monic

variable {r : Poly} (hr : r.getLsbD 8 = true)

include hr

/-- What a division step adds stays a multiple of r when it is shifted. -/
theorem reduce_divideFrom_shiftLeft_one {n : Nat} (hn : n ≤ 7) (t : Product) :
    reduce (divideFrom r n t <<< 1) r = reduce (t <<< 1) r := by
  induction n generalizing t with
  | zero => rfl
  | succ n ih =>
    rw [divideFrom, ih (by omega)]
    cases t.getLsbD (n + 8) with
    | false => rfl
    | true =>
      rw [addIf, if_pos rfl, BitVec.shiftLeft_xor_distrib, reduce_xor, ← BitVec.shiftLeft_add,
        reduce_shiftLeft hr (by omega), BitVec.xor_zero]

/-- Multiplying by x before or after the reduction is the same. -/
theorem reduce_shiftLeft_one {p : Product} (hp : p.getLsbD 15 = false) :
    reduce ((reduce p r).setWidth 16 <<< 1) r = reduce (p <<< 1) r := by
  rw [setWidth_reduce hr, divideFrom_succ_of_clear hp, reduce_divideFrom_shiftLeft_one hr le_rfl]

theorem twoPow_succ_mulMod {k : Nat} (hk : k + 1 < 8) (b : Byte) :
    mulMod r (BitVec.twoPow 8 (k + 1)) b = mulMod r (BitVec.twoPow 8 1) (mulMod r (BitVec.twoPow 8 k) b) := by
  have htop : (b.setWidth 16 <<< k).getLsbD 15 = false := by
    simp [BitVec.getLsbD_of_ge b (15 - k) (by omega)]
  rw [twoPow_mulMod r _ hk, twoPow_mulMod r _ (by omega), twoPow_mulMod r b (by omega), reduce_shiftLeft_one hr htop,
    ← BitVec.shiftLeft_add]

/-- Multiplications by powers of x commute, since each is a repeated multiplication by x. -/
theorem twoPow_mulMod_left_comm {j k : Nat} (hj : j < 8) (hk : k < 8) (c : Byte) :
    mulMod r (BitVec.twoPow 8 j) (mulMod r (BitVec.twoPow 8 k) c) =
      mulMod r (BitVec.twoPow 8 k) (mulMod r (BitVec.twoPow 8 j) c) := by
  have one (k : Nat) (hk : k < 8) (c : Byte) : mulMod r (BitVec.twoPow 8 1) (mulMod r (BitVec.twoPow 8 k) c) =
      mulMod r (BitVec.twoPow 8 k) (mulMod r (BitVec.twoPow 8 1) c) := by
    induction k with
    | zero => rw [show BitVec.twoPow 8 0 = 0x01#8 from rfl, one_mulMod, one_mulMod]
    | succ k ih => rw [twoPow_succ_mulMod hr hk, twoPow_succ_mulMod hr hk, ih (by omega)]
  induction j with
  | zero => rw [show BitVec.twoPow 8 0 = 0x01#8 from rfl, one_mulMod, one_mulMod]
  | succ j ih => rw [twoPow_succ_mulMod hr hj, twoPow_succ_mulMod hr hj, ih (by omega), one k hk]

/-- By biadditivity, from the powers of x. -/
theorem mulMod_left_comm (a b c : Byte) : mulMod r a (mulMod r b c) = mulMod r b (mulMod r a c) := by
  induction a using xor_induction with
  | zero => simp
  | twoPow j hj =>
    induction b using xor_induction with
    | zero => simp
    | twoPow k hk => exact twoPow_mulMod_left_comm hr hj hk c
    | xor u v hu hv => rw [xor_mulMod, mulMod_xor, hu, hv, xor_mulMod]
  | xor u v hu hv => rw [xor_mulMod, hu, hv, xor_mulMod, mulMod_xor]

/-- An inverse modulo r is unique (R151). -/
theorem inverse_unique {x y z : Byte} (hy : mulMod r x y = 0x01#8) (hz : mulMod r x z = 0x01#8) : y = z := by
  have h := mulMod_left_comm hr y x z
  rwa [hz, mulMod_one, mulMod_comm r y z, mulMod_left_comm hr, hy, mulMod_one] at h

/-- A byte with an inverse is no zero divisor. -/
theorem eq_zero_of_mulMod_eq_zero {x y : Byte} (hx : Invertible r x) (h : mulMod r x y = 0x00#8) : y = 0x00#8 := by
  obtain ⟨z, hz⟩ := invertible_iff.1 hx
  have h' := mulMod_left_comm hr y x z
  rwa [hz, mulMod_one, mulMod_comm r y z, mulMod_left_comm hr, h, mulMod_zero] at h'

end Monic

/-! ## Degrees -/

/-- The highest power of x in v is x^d. -/
def HasDegree {w : Nat} (v : BitVec w) (d : Nat) : Prop := v.getLsbD d = true ∧ ∀ k > d, v.getLsbD k = false

theorem exists_hasDegree {w : Nat} {v : BitVec w} (hv : v ≠ 0#w) : ∃ d, HasDegree v d :=
  Nat.exists_most_significant_bit fun h => hv (BitVec.eq_of_toNat_eq h)

theorem HasDegree.le_toNat {w d : Nat} {v : BitVec w} (h : HasDegree v d) : 2 ^ d ≤ v.toNat :=
  Nat.ge_two_pow_of_testBit h.1

theorem HasDegree.toNat_lt {w d : Nat} {v : BitVec w} (h : HasDegree v d) : v.toNat < 2 ^ (d + 1) :=
  Nat.lt_pow_two_of_testBit _ h.2

theorem HasDegree.one_le {w d : Nat} {v : BitVec w} (h : HasDegree v d) (hv : 2 ≤ v.toNat) : 1 ≤ d := by
  by_contra hd
  have hlt := h.toNat_lt
  rw [Nat.lt_one_iff.1 (not_le.1 hd)] at hlt
  omega

theorem HasDegree.unique {w d e : Nat} {v : BitVec w} (hd : HasDegree v d) (he : HasDegree v e) : d = e := by
  by_contra hne
  rcases Nat.lt_or_gt_of_ne hne with h | h
  · exact absurd (he.1.symm.trans (hd.2 e h)) (by decide)
  · exact absurd (hd.1.symm.trans (he.2 d h)) (by decide)

theorem hasDegree_monic {r : Poly} (hr : r.getLsbD 8 = true) : HasDegree (r.setWidth 16) 8 :=
  ⟨by simp [hr], fun k hk => by simp [BitVec.getLsbD_of_ge r k hk]⟩

/-- The first n steps of the product keep below x^(d+n). -/
theorem getLsbD_clmulUpTo_of_ge {a : Byte} {d : Nat} (ha : HasDegree a d) (b : Byte) {n k : Nat} (hk : d + n ≤ k) :
    (clmulUpTo a b n).getLsbD k = false := by
  induction n with
  | zero => exact BitVec.getLsbD_zero
  | succ n ih => simp [clmulUpTo, getLsbD_addIf, ih (by omega), ha.2 (k - n) (by omega)]

/-- The degree of a product is the sum of the degrees: step e of the loop adds x^(d+e), and no later step adds
anything. -/
theorem HasDegree.clmul {a b : Byte} {d e : Nat} (ha : HasDegree a d) (hb : HasDegree b e) :
    HasDegree (clmul a b) (d + e) := by
  have hd := BitVec.lt_of_getLsbD ha.1
  have he := BitVec.lt_of_getLsbD hb.1
  have last (n : Nat) (hn : e + 1 ≤ n) : clmulUpTo a b n = clmulUpTo a b (e + 1) := by
    induction n, hn using Nat.le_induction with
    | base => rfl
    | succ n hn ih => rw [clmulUpTo, hb.2 n hn, addIf, if_neg (by decide), ih]
  rw [clmul_eq_clmulUpTo, last 8 he]
  refine ⟨?_, fun k hk => getLsbD_clmulUpTo_of_ge ha b (by omega)⟩
  rw [clmulUpTo, getLsbD_addIf, getLsbD_clmulUpTo_of_ge ha b le_rfl, hb.1]
  simp [ha.1, show d + e < 16 by omega]

/-! ## Factors and inverses -/

/-- The reducer takes the polynomial itself to 0 (R124). -/
theorem reduce_self {r : Poly} (hr : r.getLsbD 8 = true) : reduce (r.setWidth 16) r = 0x00#8 := by
  have h := reduce_shiftLeft hr (k := 0) (by decide)
  rwa [BitVec.shiftLeft_zero] at h

/-- Division by a byte g of degree d: a multiple of g takes away every bit from d on. -/
theorem exists_xor_clmul {g : Byte} {d : Nat} (hg : HasDegree g d) {n : Nat} (hn : n ≤ 8) {t : Product}
    (ht : ∀ k ≥ d + n, t.getLsbD k = false) : ∃ f, ∀ k ≥ d, (t ^^^ clmul f g).getLsbD k = false := by
  induction n generalizing t with
  | zero => exact ⟨0x00#8, by simpa using ht⟩
  | succ n ih =>
    obtain ⟨f, hf⟩ := ih (by omega) (t := addIf (t.getLsbD (d + n)) (g.setWidth 16 <<< n) t) fun k hk => by
      rw [getLsbD_addIf]
      rcases hk.eq_or_lt with rfl | hlt
      · cases htop : t.getLsbD (d + n) with
        | false => simp
        | true => simp [hg.1, BitVec.lt_of_getLsbD htop]
      · simp [ht k (by omega), hg.2 (k - n) (by omega)]
    cases htop : t.getLsbD (d + n) with
    | false => exact ⟨f, by simpa [htop, addIf] using hf⟩
    | true =>
      refine ⟨BitVec.twoPow 8 n ^^^ f, ?_⟩
      rw [xor_clmul, twoPow_clmul g (by omega), ← BitVec.xor_assoc]
      simpa [htop, addIf] using hf

/-- Division of a 9-bit polynomial by a byte of degree 1 or more. -/
theorem exists_quotient (r : Poly) {g : Byte} (hg : 2 ≤ g.toNat) :
    ∃ f v : Byte, r.setWidth 16 = clmul f g ^^^ v.setWidth 16 ∧ v.toNat < g.toNat := by
  obtain ⟨d, hd⟩ := exists_hasDegree (v := g) (by bv_omega)
  have hd1 := hd.one_le hg
  obtain ⟨f, hf⟩ := exists_xor_clmul hd (n := 8) le_rfl (t := r.setWidth 16) fun k hk => by
    simp [BitVec.getLsbD_of_ge r k (by omega)]
  set v := r.setWidth 16 ^^^ clmul f g with hv
  have hlt : v.toNat < g.toNat := (Nat.lt_pow_two_of_testBit _ hf).trans_le hd.le_toNat
  have h8 : (v.setWidth 8).setWidth 16 = v := setWidth_setWidth_of_lt (hlt.trans g.isLt)
  refine ⟨f, v.setWidth 8, ?_, ?_⟩
  · rw [h8, hv, BitVec.xor_comm (r.setWidth 16), ← BitVec.xor_assoc, BitVec.xor_self, BitVec.zero_xor]
  · rwa [← BitVec.toNat_setWidth_of_le (by decide : 8 ≤ 16), h8]

/-- The degrees of two factors of a polynomial of degree 8. -/
theorem degrees_of_clmul_eq {r : Poly} (hr : r.getLsbD 8 = true) {f g : Byte} (h : clmul f g = r.setWidth 16) :
    ∃ d e, HasDegree f d ∧ HasDegree g e ∧ d + e = 8 := by
  have hdeg := h ▸ hasDegree_monic hr
  obtain ⟨d, hd⟩ := exists_hasDegree (v := f) (by rintro rfl; simp [HasDegree] at hdeg)
  obtain ⟨e, he⟩ := exists_hasDegree (v := g) (by rintro rfl; simp [HasDegree] at hdeg)
  exact ⟨d, e, hd, he, (hd.clmul he).unique hdeg⟩

/-- The factor of a polynomial of degree 8 beside a byte is no constant. -/
theorem two_le_of_clmul_eq {r : Poly} (hr : r.getLsbD 8 = true) {f g : Byte} (h : clmul f g = r.setWidth 16) :
    2 ≤ f.toNat := by
  obtain ⟨d, e, hd, he, hde⟩ := degrees_of_clmul_eq hr h
  have he8 := BitVec.lt_of_getLsbD he.1
  calc 2 = 2 ^ 1 := rfl
    _ ≤ 2 ^ d := Nat.pow_le_pow_right (by decide) (by omega)
    _ ≤ f.toNat := hd.le_toNat

/-- The multiples of x modulo r form an ideal. Its least nonzero member g is 1 when r is irreducible: dividing r by g
leaves a smaller member, which is 0. -/
theorem invertible_of_irreducible {r : Poly} (hr : r.getLsbD 8 = true) (hirr : IrreduciblePoly r) {x : Byte}
    (hx : x ≠ 0x00#8) : Invertible r x := by
  obtain ⟨y, hy, hmin⟩ := Set.exists_min_image {y : Byte | mulMod r x y ≠ 0x00#8} (fun y => (mulMod r x y).toNat)
    (Set.toFinite _) ⟨0x01#8, by simpa using hx⟩
  by_contra hinv
  have hg2 : 2 ≤ (mulMod r x y).toNat := by
    have hg0 : mulMod r x y ≠ 0x00#8 := hy
    have hg1 : mulMod r x y ≠ 0x01#8 := fun h => hinv ⟨y, h⟩
    bv_omega
  obtain ⟨f, v, hfv, hlt⟩ := exists_quotient r hg2
  have hmem : mulMod r x (mulMod r f y) = v := by
    have h := congrArg (reduce · r) hfv
    simp only [reduce_self hr, reduce_xor, reduce_setWidth] at h
    rw [mulMod_left_comm hr]
    exact BitVec.xor_eq_zero_iff.1 h.symm
  have hv : v = 0x00#8 := by
    by_contra hne
    have := hmin (mulMod r f y) (by rwa [Set.mem_ofPred_eq, hmem])
    rw [hmem] at this
    omega
  have hfg : clmul f (mulMod r x y) = r.setWidth 16 := by simpa [hv] using hfv.symm
  exact hirr ⟨f, _, two_le_of_clmul_eq hr hfg, hg2, hfg⟩

/-- A factor of r is a zero divisor, and has no inverse. -/
theorem irreducible_of_invertible {r : Poly} (hr : r.getLsbD 8 = true)
    (hinv : ∀ x : Byte, 2 ≤ x.toNat → Invertible r x) : IrreduciblePoly r := by
  rintro ⟨f, g, hf, hg, hfg⟩
  have h0 : mulMod r f g = 0x00#8 := by rw [mulMod, hfg, reduce_self hr]
  have hg0 := eq_zero_of_mulMod_eq_zero hr (hinv f hf) h0
  rw [hg0] at hg
  exact absurd hg (by decide)

theorem irreduciblePoly_iff {r : Poly} (hr : r.getLsbD 8 = true) :
    IrreduciblePoly r ↔ ∀ x : Byte, 2 ≤ x.toNat → Invertible r x := by
  refine ⟨fun h x hx => invertible_of_irreducible hr h ?_, irreducible_of_invertible hr⟩
  rintro rfl
  exact absurd hx (by decide)

end Sys2Proof.Machine

/-! PROOFS. What the inverse finder builds (R150, R151): every entry of the table is the inverse of its byte, or 0 where
there is none (for O21 to O24). -/

namespace Sys2Proof.Machine

variable {r : Poly} {f f' : Finder} {x y z : Byte} {n : Nat}

/-! ## The entries of the table -/

/-- `y` is what the table has to hold for `x`: the inverse of x modulo r, or 0 if x has none. -/
def IsEntry (r : Poly) (x y : Byte) : Prop := (y = 0x00#8 ∧ ¬ Invertible r x) ∨ mulMod r x y = 0x01#8

theorem isEntry_zero (r : Poly) : IsEntry r 0x00#8 0x00#8 := by
  refine .inl ⟨rfl, fun h => ?_⟩
  obtain ⟨y, hy⟩ := invertible_iff.1 h
  rw [zero_mulMod] at hy
  exact absurd hy (by decide)

theorem isEntry_one (r : Poly) : IsEntry r 0x01#8 0x01#8 := .inr (one_mulMod r _)

theorem IsEntry.eq_zero_iff (h : IsEntry r x y) : y = 0x00#8 ↔ ¬ Invertible r x := by
  rcases h with ⟨rfl, h⟩ | h
  · exact iff_of_true rfl h
  · refine iff_of_false ?_ (not_not_intro ⟨y, h⟩)
    rintro rfl
    rw [mulMod_zero] at h
    exact absurd h (by decide)

theorem IsEntry.mulMod_eq_one (h : IsEntry r x y) (hy : y ≠ 0x00#8) : mulMod r x y = 0x01#8 :=
  h.resolve_left fun h => hy h.1

theorem IsEntry.unique (hr : r.getLsbD 8 = true) (hy : IsEntry r x y) (hz : IsEntry r x z) : y = z := by
  by_cases h0 : y = 0x00#8
  · rw [h0, hz.eq_zero_iff.2 (hy.eq_zero_iff.1 h0)]
  · have hz0 : z ≠ 0x00#8 := fun h => h0 (hy.eq_zero_iff.2 (hz.eq_zero_iff.1 h))
    exact inverse_unique hr (hy.mulMod_eq_one h0) (hz.mulMod_eq_one hz0)

/-! ## A round of the finder -/

theorem findInverse_eq_some {j : Nat} (h : findInverse r x.toNat = some j) :
    ∃ y : Byte, j = y.toNat ∧ x ≤ y ∧ mulMod r x y = 0x01#8 := by
  obtain ⟨hp, hj, -⟩ := List.find?_range'_eq_some.1 h
  obtain ⟨hxj, hj⟩ := List.mem_range'_1.1 hj
  have hjy : (BitVec.ofNat 8 j).toNat = j := by rw [BitVec.toNat_ofNat]; omega
  refine ⟨BitVec.ofNat 8 j, hjy.symm, BitVec.le_def.2 (by omega), ?_⟩
  rwa [inversePair, beq_iff_eq, BitVec.ofNat_toNat, BitVec.setWidth_eq] at hp

theorem findInverse_eq_none (h : findInverse r x.toNat = none) (hxy : x ≤ y) : mulMod r x y ≠ 0x01#8 := by
  have hy := y.isLt
  have hp := List.find?_range'_eq_none.1 h y.toNat hxy (by omega)
  simpa [inversePair, mulMod] using hp

/-- Entry k of the table under construction. -/
def Finder.entry (f : Finder) (k : Nat) : Byte := f.table.getD k 0x00#8

theorem getD_set (T : List Byte) (a k : Nat) (v : Byte) (ha : a < T.length) :
    (T.set a v).getD k 0x00#8 = if k = a then v else T.getD k 0x00#8 := by
  by_cases h : k = a
  · simp [h, ha]
  · simp [h, List.getElem?_set_ne (Ne.symm h)]

theorem getLsbD_mark (m : BitVec 256) (x : Byte) (k : Nat) :
    (m ||| (1#256 <<< x.toNat)).getLsbD k = (m.getLsbD k || decide (k = x.toNat)) := by
  have hx := x.isLt
  rw [BitVec.getLsbD_or, ← BitVec.twoPow_eq, BitVec.getLsbD_twoPow]
  congr 1
  rw [Bool.eq_iff_iff, Bool.and_eq_true, decide_eq_true_iff, decide_eq_true_iff, decide_eq_true_iff]
  omega

/-- A round that resolves x and its inverse y turns f into f'. -/
structure Resolves (r : Poly) (f : Finder) (x y : Byte) (f' : Finder) : Prop where
  le : x ≤ y
  inverse : mulMod r x y = 0x01#8
  unres : f'.unres = f.unres
  mark : ∀ k, f'.mark.getLsbD k = (f.mark.getLsbD k || decide (k = x.toNat) || decide (k = y.toNat))
  entry : ∀ k, f'.entry k = if k = y.toNat then x else if k = x.toNat then y else f.entry k

/-- A round that finds no inverse of x from x on turns f into f'. -/
structure LeavesUnresolved (r : Poly) (f : Finder) (x : Byte) (f' : Finder) : Prop where
  unmarked : f.mark.getLsbD x.toNat = false
  inverse : ∀ y, x ≤ y → mulMod r x y ≠ 0x01#8
  unres : f'.unres = f.unres + 1
  mark : f'.mark = f.mark
  entry : ∀ k, f'.entry k = if k = x.toNat then 0x00#8 else f.entry k

/-- What a round of R150 can do. -/
theorem finderStep_cases (hlen : f.table.length = 256) (x : Byte) :
    (f.mark.getLsbD x.toNat = true ∧ finderStep r f x.toNat = f) ∨
      (∃ y, Resolves r f x y (finderStep r f x.toNat)) ∨ LeavesUnresolved r f x (finderStep r f x.toNat) := by
  have hx := x.isLt
  rw [finderStep]
  cases hm : f.mark.getLsbD x.toNat with
  | true => exact .inl ⟨rfl, if_pos rfl⟩
  | false =>
    rw [if_neg (by decide)]
    cases hj : findInverse r x.toNat with
    | some j =>
      obtain ⟨y, rfl, hxy, hmul⟩ := findInverse_eq_some hj
      have hy := y.isLt
      refine .inr (.inl ⟨y, hxy, hmul, rfl, fun k => ?_, fun k => ?_⟩)
      · rw [getLsbD_mark, getLsbD_mark]
      · simp only [BitVec.ofNat_toNat, BitVec.setWidth_eq]
        rw [Finder.entry, getD_set _ _ _ _ (by simpa [hlen] using hy), getD_set _ _ _ _ (by omega), Finder.entry]
    | none =>
      refine .inr (.inr ⟨hm, fun y => findInverse_eq_none hj, rfl, rfl, fun k => ?_⟩)
      rw [Finder.entry, getD_set _ _ _ _ (by omega), Finder.entry]

/-! ## The invariant of the rounds -/

/-- What holds of the finder after the rounds of the bytes from 2 to n - 1. -/
structure FinderInv (r : Poly) (n : Nat) (f : Finder) : Prop where
  length : f.table.length = 256
  zero : f.entry 0 = 0x00#8
  /-- The marked bytes but 0 have their inverses. -/
  marked : ∀ x : Byte, x ≠ 0x00#8 → f.mark.getLsbD x.toNat = true → mulMod r x (f.entry x.toNat) = 0x01#8
  /-- A byte is marked together with its inverse. -/
  paired : ∀ x y : Byte, mulMod r x y = 0x01#8 → f.mark.getLsbD x.toNat = true → f.mark.getLsbD y.toNat = true
  /-- A byte left unmarked by its round has no inverse. -/
  passed : ∀ x : Byte, x.toNat < n → f.mark.getLsbD x.toNat = false → f.entry x.toNat = 0x00#8 ∧ ¬ Invertible r x
  /-- The count of the bytes left unresolved. -/
  unres : f.unres = (List.range' 2 (n - 2)).countP fun k => f.entry k == 0x00#8

/-- The bytes whose rounds are over have their entries. -/
theorem FinderInv.isEntry (hf : FinderInv r n f) (hx : x.toNat < n) : IsEntry r x (f.entry x.toNat) := by
  by_cases h0 : x = 0x00#8
  · rw [h0, BitVec.toNat_ofNat, Nat.zero_mod, hf.zero]
    exact isEntry_zero r
  · cases hm : f.mark.getLsbD x.toNat with
    | true => exact .inr (hf.marked x h0 hm)
    | false => exact .inl (hf.passed x hx hm)

/-- Before the loop exactly 0 and 1 are marked. -/
theorem getLsbD_mark_finderStart (k : Nat) : finderStart.mark.getLsbD k = decide (k < 2) := by
  have three : (3 : Nat).testBit k = decide (k < 2) := Nat.testBit_two_pow_sub_one 2 k
  rw [finderStart, BitVec.getLsbD_ofNat, three, ← Bool.decide_and]
  congr 1
  rw [eq_iff_iff]
  omega

theorem finderInv_start (r : Poly) : FinderInv r 2 finderStart := by
  have low (x : Byte) : finderStart.mark.getLsbD x.toNat = true ↔ x = 0x00#8 ∨ x = 0x01#8 := by
    rw [getLsbD_mark_finderStart, decide_eq_true_iff]
    bv_omega
  refine ⟨?_, rfl, ?_, ?_, ?_, rfl⟩
  · simp only [finderStart, List.length_cons, List.length_replicate]
  · intro x h0 hx
    rw [((low x).1 hx).resolve_left h0]
    exact one_mulMod r _
  · intro x y hxy hx
    rw [low] at hx ⊢
    rcases hx with rfl | rfl
    · rw [zero_mulMod] at hxy
      exact absurd hxy (by decide)
    · rw [one_mulMod] at hxy
      exact .inr hxy
  · intro x hx hm
    rw [getLsbD_mark_finderStart, decide_eq_true hx] at hm
    cases hm

/-- The round of n adds its own entry to the count. -/
theorem countP_entries_succ (hn : 2 ≤ n) (hk : ∀ k < n, f'.entry k = f.entry k) :
    ((List.range' 2 (n + 1 - 2)).countP fun k => f'.entry k == 0x00#8) =
      ((List.range' 2 (n - 2)).countP fun k => f.entry k == 0x00#8) + if f'.entry n = 0x00#8 then 1 else 0 := by
  rw [show n + 1 - 2 = n - 2 + 1 by omega, List.range'_1_concat, List.countP_append, List.countP_singleton,
    show 2 + (n - 2) = n by omega]
  congr 1
  · refine List.countP_congr fun k hk' => ?_
    obtain ⟨-, hlt⟩ := List.mem_range'_1.1 hk'
    rw [hk k (by omega)]
  · simp only [beq_iff_eq]

/-- A round that finds x marked keeps the invariant. -/
theorem FinderInv.skip (hf : FinderInv r x.toNat f) (hx : 2 ≤ x.toNat) (hm : f.mark.getLsbD x.toNat = true) :
    FinderInv r (x.toNat + 1) f := by
  have hinv := hf.marked x (by rintro rfl; exact absurd hx (by decide)) hm
  refine ⟨hf.length, hf.zero, hf.marked, hf.paired, fun z hz hzm => ?_, ?_⟩
  · have hne : z.toNat ≠ x.toNat := fun h => by rw [h, hm] at hzm; cases hzm
    exact hf.passed z (by omega) hzm
  · rw [countP_entries_succ hx fun _ _ => rfl, ← hf.unres, if_neg, Nat.add_zero]
    intro h
    rw [h, mulMod_zero] at hinv
    exact absurd hinv (by decide)

/-- A round that resolves x and y keeps the invariant: the inverse is unique, and y is x or still to come. -/
theorem FinderInv.resolve (hr : r.getLsbD 8 = true) (hf : FinderInv r x.toNat f) (hx : 2 ≤ x.toNat)
    (h : Resolves r f x y f') (hlen : f'.table.length = 256) : FinderInv r (x.toNat + 1) f' := by
  have hle : x.toNat ≤ y.toNat := h.le
  have hyx : mulMod r y x = 0x01#8 := (mulMod_comm r y x).trans h.inverse
  have hmark (z : Byte) : f'.mark.getLsbD z.toNat = true ↔ (f.mark.getLsbD z.toNat = true ∨ z = x) ∨ z = y := by
    simp only [h.mark, Bool.or_eq_true, decide_eq_true_eq, BitVec.toNat_inj]
  have hentry (z : Byte) : f'.entry z.toNat = if z = y then x else if z = x then y else f.entry z.toNat := by
    simp only [h.entry, BitVec.toNat_inj]
  refine ⟨hlen, ?_, ?_, ?_, ?_, ?_⟩
  · rw [h.entry, if_neg (by omega), if_neg (by omega), hf.zero]
  · intro z h0 hz
    rw [hentry]
    split_ifs with hzy hzx
    · rw [hzy, hyx]
    · rw [hzx, h.inverse]
    · exact hf.marked z h0 (((hmark z).1 hz).resolve_right hzy |>.resolve_right hzx)
  · intro z w hzw hz
    rw [hmark] at hz ⊢
    rcases hz with (hz | rfl) | rfl
    · exact .inl (.inl (hf.paired z w hzw hz))
    · exact .inr (inverse_unique hr hzw h.inverse)
    · exact .inl (.inr (inverse_unique hr hzw hyx))
  · intro z hz hm
    rw [← Bool.not_eq_true, hmark, not_or, not_or, Bool.not_eq_true] at hm
    obtain ⟨⟨hold, hzx⟩, hzy⟩ := hm
    rw [hentry, if_neg hzy, if_neg hzx]
    exact hf.passed z (by bv_omega) hold
  · rw [countP_entries_succ (f := f) hx fun k hk => by rw [h.entry, if_neg (by omega), if_neg (by omega)], ← hf.unres,
      h.unres, hentry, if_pos rfl, if_neg, Nat.add_zero]
    split_ifs <;> bv_omega

/-- A round that finds no inverse keeps the invariant: an inverse below x would be marked, and x with it. -/
theorem FinderInv.leave (hf : FinderInv r x.toNat f) (hx : 2 ≤ x.toNat) (h : LeavesUnresolved r f x f')
    (hlen : f'.table.length = 256) : FinderInv r (x.toNat + 1) f' := by
  have hm := h.unmarked
  have hinv : ¬ Invertible r x := by
    rintro ⟨y, hxy : mulMod r x y = 0x01#8⟩
    have hlt : y.toNat < x.toNat := not_le.1 fun hle => h.inverse y hle hxy
    have hyx : mulMod r y x = 0x01#8 := (mulMod_comm r y x).trans hxy
    cases hym : f.mark.getLsbD y.toNat with
    | true => rw [hf.paired y x hyx hym] at hm; cases hm
    | false => exact (hf.passed y hlt hym).2 ⟨x, hyx⟩
  refine ⟨hlen, ?_, ?_, ?_, ?_, ?_⟩
  · rw [h.entry, if_neg (by omega), hf.zero]
  · intro z h0 hz
    rw [h.mark] at hz
    rw [h.entry, if_neg, hf.marked z h0 hz]
    intro hzx
    rw [hzx, hm] at hz
    cases hz
  · rw [h.mark]
    exact hf.paired
  · intro z hz hzm
    rw [h.entry]
    split_ifs with hzx
    · exact ⟨rfl, by rwa [BitVec.eq_of_toNat_eq hzx]⟩
    · exact hf.passed z (by omega) (by rwa [h.mark] at hzm)
  · rw [countP_entries_succ (f := f) hx fun k hk => by rw [h.entry, if_neg (by omega)], ← hf.unres, h.unres, h.entry,
      if_pos rfl, if_pos rfl]

theorem FinderInv.step (hr : r.getLsbD 8 = true) (hf : FinderInv r x.toNat f) (hx : 2 ≤ x.toNat) :
    FinderInv r (x.toNat + 1) (finderStep r f x.toNat) := by
  have hlen := (length_finderStep r f x.toNat).trans hf.length
  rcases finderStep_cases hf.length x with ⟨hm, he⟩ | ⟨y, h⟩ | h
  · rw [he]
    exact hf.skip hx hm
  · exact hf.resolve hr hx h hlen
  · exact hf.leave hx h hlen

theorem finderInv_invfind (hr : r.getLsbD 8 = true) : FinderInv r 256 (invfind r) := by
  have upTo (m : Nat) (hm : m ≤ 254) :
      FinderInv r (2 + m) ((List.range' 2 m).foldl (finderStep r) finderStart) := by
    induction m with
    | zero => exact finderInv_start r
    | succ m ih =>
      have hx : (BitVec.ofNat 8 (2 + m)).toNat = 2 + m := by rw [BitVec.toNat_ofNat]; omega
      have := FinderInv.step hr (x := BitVec.ofNat 8 (2 + m)) (by rw [hx]; exact ih (by omega)) (by omega)
      rw [hx] at this
      rwa [List.range'_1_concat, List.foldl_concat]
  exact upTo 254 le_rfl

end Sys2Proof.Machine

/-! PROOFS. INVGEN: its table (O21, O23), its frame (O22), and when it resolves every byte (O24). -/

namespace Sys2Proof.Machine

variable {r : Poly} {s t : State} {x : Byte}

theorem monic_polyReg (s : State) : (polyReg s).getLsbD 8 = true := getLsbD_monic s.poly

theorem mem_invgen (h : exec .invgen s = .next t) :
    t.mem = Memory.writeRange s.mem invBase (invfind (polyReg s)).table := by
  rw [← Host.Outcome.next.inj ((exec_invgen s).symm.trans h), leaveMark_mem, writeUnres_mem, writeInv_mem]

/-- INVGEN leaves the finder's table in INV. -/
theorem readByte_invgen (h : exec .invgen s = .next t) {k : Nat} (hk : k < 256) :
    readByte t (0x100 + k) = (invfind (polyReg s)).entry k := by
  have hk' : k < (invfind (polyReg s)).table.length := by rwa [length_invfind]
  rw [Finder.entry, List.getD_eq_getElem _ _ hk']
  exact readByte_of_written (mem_invgen h) hk'

/-- Every cell of INV holds the entry of its byte. -/
theorem isEntry_invgen (h : exec .invgen s = .next t) (x : Byte) :
    IsEntry (polyReg s) x (readByte t (0x100 + x.toNat)) := by
  rw [readByte_invgen h x.isLt]
  exact (finderInv_invfind (monic_polyReg s)).isEntry x.isLt

/-- INVGEN leaves the finder's count in UNRES; it fits (R32). -/
theorem toNat_unres_invgen (h : exec .invgen s = .next t) : t.unres.toNat = (invfind (polyReg s)).unres := by
  have hle := unres_invfind_le (polyReg s)
  rw [← Host.Outcome.next.inj ((exec_invgen s).symm.trans h), leaveMark_unres, writeUnres_unres, BitVec.toNat_ofNat]
  omega

/-- Settles O21: every cell holds an entry, entries are unique, and the finder counts the zeros. -/
theorem invgenInverseTable : Obligations.InvgenInverseTable := by
  intro s
  have hr := monic_polyReg s
  obtain ⟨t, h⟩ := exec_next .invgen s
  have entry := isEntry_invgen h
  refine ⟨t, h, ?_, ?_, fun x hx hy => ?_, fun x _ => (entry x).eq_zero_iff, ?_, ?_⟩
  · exact (entry 0x00#8).unique hr (isEntry_zero _)
  · exact (entry 0x01#8).unique hr (isEntry_one _)
  · have hxy := (entry x).mulMod_eq_one hy
    exact ⟨hxy, (entry _).unique hr (.inr ((mulMod_comm ..).trans hxy))⟩
  · rw [toNat_unres_invgen h, (finderInv_invfind hr).unres]
    refine List.countP_congr fun k hk => ?_
    obtain ⟨-, hk⟩ := List.mem_range'_1.1 hk
    rw [readByte_invgen h hk]
  · rw [toNat_unres_invgen h]
    exact unres_invfind_le _

/-- Settles O22: the written cells are the 256 of INV. -/
theorem invgenFrame : Obligations.InvgenFrame := by
  intro s
  have hkept : Memory.wf s.mem → ∀ t, exec .invgen s = .next t → CellsKeptOutside s t 0x100 0x200 := by
    intro hwf t h
    obtain ⟨-, -, -, -, -, -, -, -, -, hresets⟩ := exec_keeps h
    have hkept := cellsKept_of_written hwf (mem_invgen h) hresets
    rwa [length_invfind] at hkept
  refine ⟨_, exec_invgen s, ?_, fun hwf => hkept hwf _ (exec_invgen s), ?_⟩
  · rw [leaveMark_invval, writeUnres_invval, writeInv_invval]
  · generalize invfind (polyReg s) = f
    rfl

/-- Settles O23: INV holds entries, and entries are unique. -/
theorem inverseTableIsUnique : Obligations.InverseTableIsUnique := by
  intro s t T h _ h0 h1 hT x
  have entry : ∃ y, T[x.toNat]? = some y ∧ IsEntry (polyReg s) x y := by
    by_cases hx : 2 ≤ x.toNat
    · exact hT x hx
    · obtain rfl | rfl : x = 0x00#8 ∨ x = 0x01#8 := by bv_omega
      · exact ⟨_, h0, isEntry_zero _⟩
      · exact ⟨_, h1, isEntry_one _⟩
  obtain ⟨y, hy, hentry⟩ := entry
  rw [hy, hentry.unique (monic_polyReg s) (isEntry_invgen h x)]

/-- The finder resolves every byte exactly when every byte has an inverse. -/
theorem unres_invfind_eq_zero_iff (hr : r.getLsbD 8 = true) :
    (invfind r).unres = 0 ↔ ∀ x : Byte, 2 ≤ x.toNat → Invertible r x := by
  have hf := finderInv_invfind hr
  have entry (x : Byte) : (invfind r).entry x.toNat ≠ 0x00#8 ↔ Invertible r x := by
    rw [ne_eq, (hf.isEntry x.isLt).eq_zero_iff, not_not]
  rw [hf.unres, List.countP_eq_zero]
  simp only [beq_iff_eq, List.mem_range'_1]
  constructor
  · intro h x hx
    exact (entry x).1 (h x.toNat ⟨hx, x.isLt⟩)
  · rintro h k ⟨hk, hk'⟩
    have hx : (BitVec.ofNat 8 k).toNat = k := by rw [BitVec.toNat_ofNat]; omega
    rw [← hx]
    exact (entry _).2 (h _ (by omega))

/-- R153, in terms of the scanned polynomial. -/
theorem unres_invfind_eq_zero_iff_irreducible (hr : r.getLsbD 8 = true) :
    (invfind r).unres = 0 ↔ IrreduciblePoly r :=
  (unres_invfind_eq_zero_iff hr).trans (irreduciblePoly_iff hr).symm

/-- Settles O24, by `unres_invfind_eq_zero_iff_irreducible`. -/
theorem unresZeroIffIrreducible : Obligations.UnresZeroIffIrreducible := by
  refine ⟨fun low => unres_invfind_eq_zero_iff_irreducible (getLsbD_monic low), fun s => ?_⟩
  obtain ⟨t, h⟩ := exec_next .invgen s
  refine ⟨t, h, ?_⟩
  rw [← unres_invfind_eq_zero_iff_irreducible (monic_polyReg s), ← toNat_unres_invgen h, ← BitVec.toNat_inj]
  rfl

end Sys2Proof.Machine

/-! PROOFS. The scanner (R154, R155, R157): it lists the odd polynomials under which every byte has an inverse, rising
(O26); which they are, a sieve over the products of two bytes decides (O25). -/

namespace Sys2Proof.Machine

variable {r : Poly} {s t : State} {n : Nat}

/-! ## The list -/

/-- A candidate in numbers. -/
theorem toNat_candidate (hn : n < 128) : (BitVec.ofNat 9 (0x101 + 2 * n)).toNat = 0x101 + 2 * n := by
  rw [BitVec.toNat_ofNat]
  omega

/-- The candidates are the polynomials with bits 8 and 0 set (R154). -/
theorem mem_candidates_iff : r ∈ candidates ↔ r.getLsbD 8 = true ∧ r.getLsbD 0 = true := by
  have hlt := r.isLt
  have h8 : r.getLsbD 8 = true ↔ 0x100 ≤ r.toNat := by
    rw [BitVec.getLsbD, testBit_eq_mod, decide_eq_true_iff, Nat.shiftRight_eq_div_pow]
    omega
  have h0 : r.getLsbD 0 = true ↔ r.toNat % 2 = 1 := by
    rw [BitVec.getLsbD, testBit_eq_mod, decide_eq_true_iff, Nat.shiftRight_zero]
  rw [h8, h0, candidates, List.mem_map]
  constructor
  · rintro ⟨n, hn, rfl⟩
    rw [toNat_candidate (List.mem_range.1 hn)]
    omega
  · rintro ⟨h8, h0⟩
    have hn : (r.toNat - 0x101) / 2 < 128 := by omega
    refine ⟨(r.toNat - 0x101) / 2, List.mem_range.2 hn, BitVec.eq_of_toNat_eq ?_⟩
    rw [toNat_candidate hn]
    omega

theorem candidates_rising : candidates.Pairwise fun p q => p.toNat < q.toNat := by
  rw [candidates, List.pairwise_map]
  refine List.pairwise_lt_range.imp_of_mem fun hm hn hlt => ?_
  rw [toNat_candidate (List.mem_range.1 hm), toNat_candidate (List.mem_range.1 hn)]
  omega

/-- What the scanner lists (R155). -/
theorem mem_irreducibles_iff : r ∈ irreducibles ↔
    r.getLsbD 8 = true ∧ r.getLsbD 0 = true ∧ ∀ x : Byte, 2 ≤ x.toNat → Invertible r x := by
  rw [irreducibles, List.mem_filter, mem_candidates_iff, beq_iff_eq, and_assoc]
  exact and_congr_right fun hr => and_congr_right fun _ => unres_invfind_eq_zero_iff hr

theorem irreducibles_rising : irreducibles.Pairwise fun p q => p.toNat < q.toNat :=
  candidates_rising.filter _

/-! ## IRRSCAN -/

theorem irr_irrscan (h : exec .irrscan s = .next t) : t.irr = Memory.writeRange s.irr 0 irreducibles := by
  rw [← Host.Outcome.next.inj ((exec_irrscan s).symm.trans h), leaveMark_irr, writeIrr_irr]

/-- IRRCNT is the length of the list; it fits (R33). -/
theorem toNat_irrcnt_irrscan (h : exec .irrscan s = .next t) : t.irrcnt.toNat = irreducibles.length := by
  have hle := length_irreducibles_le
  rw [← Host.Outcome.next.inj ((exec_irrscan s).symm.trans h), leaveMark_irrcnt, writeIrr_irrcnt, BitVec.toNat_ofNat]
  omega

/-- IRR[0..IRRCNT-1] is the list. -/
theorem readIrr_irrscan (h : exec .irrscan s = .next t) (hn : n < irreducibles.length) :
    readIrr t n = irreducibles[n] := by
  have hget := Memory.get?_writeRange_inside s.irr 0 irreducibles hn
  rw [Nat.zero_add] at hget
  rw [readIrr, irr_irrscan h, hget, Option.getD_some]

/-- Entries from IRRCNT on are not written (R39). -/
theorem readIrr_irrscan_outside (hwf : Memory.wf s.irr) (h : exec .irrscan s = .next t)
    (hn : irreducibles.length ≤ n) : readIrr t n = readIrr s n := by
  obtain ⟨-, -, -, -, -, -, -, -, -, hresets⟩ := exec_keeps h
  rw [readIrr, irr_irrscan h, hresets, Memory.get?_writeRange_outside hwf _ _ (.inr (by omega)), readIrr]

/-- Beside its writes IRRSCAN changes nothing. (For any list: the kernel must not evaluate the scanner's.) -/
theorem frame_of_writeIrr {l : List Poly} (h : leaveMark (writeIrr l s) = t) :
    t = { s with irr := t.irr, irrcnt := t.irrcnt, mark := t.mark, draws := s.draws + 1 } := by
  subst h
  rfl

/-- Settles O26, by the members and the order of the list. -/
theorem irrscanListsFullInverses : Obligations.IrrscanListsFullInverses := by
  intro s
  obtain ⟨t, h⟩ := exec_next .irrscan s
  refine ⟨t, h, fun r => ?_, fun m n hmn hn => ?_, fun hwf n hn => ?_, ?_⟩
  · rw [toNat_irrcnt_irrscan h, ← mem_irreducibles_iff, List.mem_iff_getElem]
    exact exists_congr fun n => ⟨fun ⟨hn, he⟩ => ⟨hn, (readIrr_irrscan h hn).symm.trans he⟩,
      fun ⟨hn, he⟩ => ⟨hn, (readIrr_irrscan h hn).trans he⟩⟩
  · rw [toNat_irrcnt_irrscan h] at hn
    rw [readIrr_irrscan h hn, readIrr_irrscan h (hmn.trans hn)]
    exact List.pairwise_iff_getElem.1 irreducibles_rising m n (hmn.trans hn) hn hmn
  · rw [toNat_irrcnt_irrscan h] at hn
    exact readIrr_irrscan_outside hwf h hn
  · exact frame_of_writeIrr (Host.Outcome.next.inj ((exec_irrscan s).symm.trans h))

/-! ## The sieve -/

/-- The products f * g of degree 8, by the degree d of f: f in [2^d, 2^(d+1)), g in [2^(8-d), 2^(9-d)). -/
def productsOfDegreeEight : List Nat :=
  (List.range' 1 7).flatMap fun d => (List.range' (2 ^ d) (2 ^ d)).flatMap fun f =>
    (List.range' (2 ^ (8 - d)) (2 ^ (8 - d))).map (clmulNat f)

/-- The numbers of a list as the bits of one number, so that the kernel computes the products once and not once for each
candidate. -/
def bitSet (l : List Nat) : Nat := l.foldl (fun m p => m ||| 2 ^ p) 0

theorem testBit_bitSet (l : List Nat) (k : Nat) : (bitSet l).testBit k = decide (k ∈ l) := by
  have foldl (m : Nat) : (l.foldl (fun m p => m ||| 2 ^ p) m).testBit k = (m.testBit k || decide (k ∈ l)) := by
    induction l generalizing m with
    | nil => simp
    | cons p l ih => simp [ih, Nat.testBit_two_pow, Bool.or_assoc, eq_comm]
  rw [bitSet, foldl, Nat.zero_testBit, Bool.false_or]

theorem HasDegree.mem_range' {w d : Nat} {v : BitVec w} (h : HasDegree v d) : v.toNat ∈ List.range' (2 ^ d) (2 ^ d) := by
  have hlt := h.toNat_lt
  rw [Nat.pow_succ] at hlt
  exact List.mem_range'_1.2 ⟨h.le_toNat, by omega⟩

/-- A number of degree 1 to 7 is a byte from 2 on. -/
theorem byte_of_mem_range' {d f : Nat} (hd1 : 1 ≤ d) (hd7 : d ≤ 7) (hf : f ∈ List.range' (2 ^ d) (2 ^ d)) :
    2 ≤ f ∧ f < 256 := by
  obtain ⟨hlo, hhi⟩ := List.mem_range'_1.1 hf
  have hlow : 2 ^ 1 ≤ 2 ^ d := Nat.pow_le_pow_right (by decide) hd1
  have hhigh : 2 ^ d ≤ 2 ^ 7 := Nat.pow_le_pow_right (by decide) hd7
  omega

theorem clmul_eq_iff_clmulNat_eq {f g : Byte} :
    clmul f g = r.setWidth 16 ↔ clmulNat f.toNat g.toNat = r.toNat := by
  rw [← toNat_clmul, ← BitVec.toNat_inj, BitVec.toNat_setWidth_of_le (by decide)]

/-- A polynomial of degree 8 is irreducible when it is no product of degree 8: the degrees of its factors add up to 8. -/
theorem irreduciblePoly_iff_not_mem (hr : r.getLsbD 8 = true) :
    IrreduciblePoly r ↔ r.toNat ∉ productsOfDegreeEight := by
  rw [IrreduciblePoly, not_iff_not, productsOfDegreeEight]
  simp only [List.mem_flatMap, List.mem_map]
  constructor
  · rintro ⟨f, g, hf, hg, hfg⟩
    obtain ⟨d, e, hd, he, hde⟩ := degrees_of_clmul_eq hr hfg
    have hd1 := hd.one_le hf
    have he1 := he.one_le hg
    obtain rfl : e = 8 - d := by omega
    exact ⟨d, List.mem_range'_1.2 (by omega), _, hd.mem_range', _, he.mem_range', clmul_eq_iff_clmulNat_eq.1 hfg⟩
  · rintro ⟨d, hd, f, hf, g, hg, hfg⟩
    obtain ⟨hd1, hd8⟩ := List.mem_range'_1.1 hd
    obtain ⟨hf2, hf8⟩ := byte_of_mem_range' hd1 (by omega) hf
    obtain ⟨hg2, hg8⟩ := byte_of_mem_range' (d := 8 - d) (by omega) (by omega) hg
    have hfn : (BitVec.ofNat 8 f).toNat = f := Nat.mod_eq_of_lt hf8
    have hgn : (BitVec.ofNat 8 g).toNat = g := Nat.mod_eq_of_lt hg8
    exact ⟨_, _, hf2.trans_eq hfn.symm, hg2.trans_eq hgn.symm, clmul_eq_iff_clmulNat_eq.2 (by rwa [hfn, hgn])⟩

/-- The scanner's list, by the sieve (R157). -/
theorem irreducibles_eq : irreducibles = specIrrList := by
  have hfilter : irreducibles = candidates.filter fun r => !(bitSet productsOfDegreeEight).testBit r.toNat := by
    refine List.filter_congr fun r hr => ?_
    rw [Bool.eq_iff_iff, beq_iff_eq, testBit_bitSet, Bool.not_eq_true', decide_eq_false_iff_not,
      unres_invfind_eq_zero_iff_irreducible (mem_candidates_iff.1 hr).1,
      irreduciblePoly_iff_not_mem (mem_candidates_iff.1 hr).1]
  rw [hfilter]
  decide +kernel

/-- Settles O25, by the sieve. -/
theorem irrscanResultList : Obligations.IrrscanResultList := by
  intro s
  obtain ⟨t, h⟩ := exec_next .irrscan s
  have hlen : irreducibles.length = 30 := by rw [irreducibles_eq]; rfl
  refine ⟨t, h, (toNat_irrcnt_irrscan h).trans hlen, fun n hn => ?_⟩
  rw [readIrr_irrscan h (hn.trans_eq hlen.symm), ← irreducibles_eq, List.getElem?_eq_getElem]

end Sys2Proof.Machine

/-! PROOFS. The affine transform (42_affine.md): its bits (O27, O28), the table AFFTAB writes (O29), and the S-box of AES
(O30). -/

namespace Sys2Proof.Machine

variable {s t : State} {i k : Nat}

/-! ## The transform, bit by bit (R170) -/

/-- A loop that sets the bits of a list whose condition holds. -/
theorem getLsbD_foldl_setBit (c : Nat → Bool) (l : List Nat) (y : Byte) (hi : i < 8) :
    (l.foldl (fun y j => if c j then y ||| (1#8 <<< j) else y) y).getLsbD i =
      (y.getLsbD i || (decide (i ∈ l) && c i)) := by
  induction l generalizing y with
  | nil => simp
  | cons j l ih =>
    rw [List.foldl_cons, ih]
    by_cases hij : i = j
    · subst hij
      cases c i <;> simp [hi, ← BitVec.twoPow_eq]
    · cases c j <;> simp [hij, hi, ← BitVec.twoPow_eq]

/-- Row i of the matrix gives bit i. -/
theorem getLsbD_aff (x : Byte) (hi : i < 8) :
    (aff x).getLsbD i = (parity (rotl8 0xF1#8 i &&& x) ^^ (0x63#8).getLsbD i) := by
  have hmem : i ∈ [0, 1, 2, 3, 4, 5, 6, 7] := List.mem_range.2 hi
  rw [aff, BitVec.getLsbD_xor, getLsbD_foldl_setBit (fun i => parity (rotl8 0xF1#8 i &&& x)) _ _ hi,
    decide_eq_true hmem, Bool.true_and, BitVec.getLsbD_zero, Bool.false_or]

/-- The bits of x that row i of the matrix sums. -/
theorem parity_row (x : Byte) (hi : i < 8) :
    parity (rotl8 0xF1#8 i &&& x) = (x.getLsbD i ^^ x.getLsbD ((i + 4) % 8) ^^ x.getLsbD ((i + 5) % 8) ^^
      x.getLsbD ((i + 6) % 8) ^^ x.getLsbD ((i + 7) % 8)) := by
  have : Std.Commutative (α := Bool) bne := ⟨Bool.xor_comm⟩
  interval_cases i <;> simp [parity, rotl8] <;> ac_rfl

/-- A row sums additively. -/
theorem parity_and_xor (m u v : Byte) : parity (m &&& (u ^^^ v)) = (parity (m &&& u) ^^ parity (m &&& v)) := by
  have : Std.Commutative xor := ⟨Bool.xor_comm⟩
  simp only [parity, BitVec.getLsbD_and, BitVec.getLsbD_xor, Bool.and_xor_distrib_left]
  ac_rfl

/-- Settles O27, by the rows of the matrix. -/
theorem affineResultBits : Obligations.AffineResultBits := by
  refine fun s x => ⟨aff x, exec_affine x s, fun i hi => ?_⟩
  rw [getLsbD_aff x hi, parity_row x hi]

/-- Settles O28: parity is additive, and the constant is added once more on the right. -/
theorem affIsAffine : Obligations.AffIsAffine := by
  intro x z
  have bits : ∀ p q c : Bool, ((p ^^ q) ^^ c) = ((p ^^ c) ^^ (q ^^ c) ^^ c) := by decide
  apply BitVec.eq_of_getLsbD_eq
  intro i hi
  rw [BitVec.getLsbD_xor, BitVec.getLsbD_xor, getLsbD_aff _ hi, getLsbD_aff _ hi, getLsbD_aff _ hi, parity_and_xor,
    bits]

/-! ## AFFTAB (R172) -/

theorem mem_afftab {raw : Bool} (h : exec (.afftab raw) s = .next t) :
    t.mem = Memory.writeRange s.mem sboxBase ((invTable s).map fun v => if raw then v else aff v) := by
  rw [← Host.Outcome.next.inj ((exec_afftab raw s).symm.trans h), writeSbox_mem]

theorem length_map_invTable (f : Byte → Byte) (s : State) : ((invTable s).map f).length = 256 := by
  rw [List.length_map, invTable, length_readBytes]

/-- AFFTAB leaves the transformed or raw entry of INV in each cell of SBOX. -/
theorem readByte_afftab {raw : Bool} (h : exec (.afftab raw) s = .next t) (hk : k < 256) :
    readByte t (0x200 + k) = if raw then readByte s (0x100 + k) else aff (readByte s (0x100 + k)) := by
  refine (readByte_of_written (mem_afftab h) (hk.trans_eq (length_map_invTable _ s).symm)).trans ?_
  simp only [List.getElem_map, invTable, getElem_readBytes]
  rfl

/-- Settles O29: the written cells are the 256 of SBOX. -/
theorem afftabFillsSbox : Obligations.AfftabFillsSbox := by
  intro s raw
  obtain ⟨t, h⟩ := exec_next (.afftab raw) s
  refine ⟨t, h, fun _ => readByte_afftab h, fun hwf => ?_, ?_⟩
  · obtain ⟨-, -, -, -, -, -, -, -, -, hresets⟩ := exec_keeps h
    have hkept := cellsKept_of_written hwf (mem_afftab h) hresets
    rwa [length_map_invTable] at hkept
  · rw [exec_afftab, Host.Outcome.next.injEq] at h
    subst h
    rfl

/-! ## The S-box of AES (R173) -/

/-- The inverse of the affine transform. -/
def unaff (y : Byte) : Byte := rotl8 y 1 ^^^ rotl8 y 3 ^^^ rotl8 y 6 ^^^ 0x05#8

theorem aff_unaff : ∀ y : Byte, aff (unaff y) = y := by decide +kernel

/-- The spec's S-box with the affine transform undone. -/
def aesInverse (x : Byte) : Byte := unaff (BitVec.ofNat 8 (specAesSbox.getD x.toNat 0))

theorem getElem?_specAesSbox (x : Byte) : specAesSbox[x.toNat]? = some (aff (aesInverse x)).toNat := by
  have bytes : ∀ v ∈ specAesSbox, v < 256 := by decide +kernel
  have hlen : specAesSbox.length = 256 := by decide +kernel
  have hx : x.toNat < specAesSbox.length := x.isLt.trans_eq hlen.symm
  rw [aesInverse, aff_unaff, List.getD_eq_getElem _ _ hx, List.getElem?_eq_getElem hx, BitVec.toNat_ofNat,
    Nat.mod_eq_of_lt (bytes _ (List.getElem_mem hx))]

/-- Under 0x11B it is the table of inverses: the kernel multiplies each byte by its entry. -/
theorem isEntry_aesInverse (x : Byte) : IsEntry 0x11B#9 x (aesInverse x) := by
  have products : ∀ x : Byte, x ≠ 0x00#8 → mulMod 0x11B#9 x (aesInverse x) = 0x01#8 := by decide +kernel
  by_cases hx : x = 0x00#8
  · rw [hx, show aesInverse 0x00#8 = 0x00#8 by decide +kernel]
    exact isEntry_zero _
  · exact .inr (products x hx)

/-- Settles O30: the entries of INV are unique, and AFFTAB transforms them. -/
theorem aesSboxFromInvgenAfftab : Obligations.AesSboxFromInvgenAfftab := by
  intro s hpoly
  obtain ⟨t, ht⟩ := exec_next .invgen s
  obtain ⟨u, hu⟩ := exec_next (.afftab false) t
  have inv (x : Byte) : readByte t (0x100 + x.toNat) = aesInverse x :=
    (isEntry_invgen ht x).unique (monic_polyReg s) (hpoly ▸ isEntry_aesInverse x)
  have sbox (x : Byte) : readByte u (0x200 + x.toNat) = aff (aesInverse x) := by
    rw [readByte_afftab hu x.isLt, if_neg (by decide), inv]
  refine ⟨t, u, ht, hu, ?_, ?_, ?_, fun k hk => ?_⟩
  · exact (sbox 0x00#8).trans (by decide)
  · exact (sbox 0x01#8).trans (by decide)
  · exact (sbox 0xFF#8).trans (by decide)
  · have hx : (BitVec.ofNat 8 k).toNat = k := Nat.mod_eq_of_lt hk
    have h := getElem?_specAesSbox (BitVec.ofNat 8 k)
    rwa [← sbox, hx] at h

end Sys2Proof.Machine

/-! PROOFS. The rows of the deviation matrix (10_state.md R40): what a command that writes rows 1 to 255 leaves in each
cell, and what it keeps. -/

namespace Sys2Proof.Machine

variable {s t : State} {f : Nat → List Byte} {i j : Nat}

/-- A row is read as its cells one by one. -/
theorem devRow_eq_map (s : State) (i : Nat) : devRow s i = (List.range 256).map (devCell s i) := readBytes_eq_map ..

/-- After a write of all rows a cell is the entry of its row. -/
theorem devCell_of_rows (hm : t.mem = Memory.writeRange s.mem (devBase + 256) (usedRows.flatMap f))
    (hf : ∀ i, (f i).length = 256) (h1 : 1 ≤ i) (hi : i < 256) (hj : j < 256) :
    devCell t i j = (f i)[j]'(by rw [hf]; exact hj) := by
  have hlt : 256 * (i - 1) + j < (usedRows.flatMap f).length := by
    rw [usedRows, length_rows f hf]
    omega
  have ha : devAddr i j = devBase + 256 + (256 * (i - 1) + j) := by
    rw [devAddr]
    omega
  rw [devCell, ha, readByte_of_written hm hlt]
  refine (getElem_rows f hf 1 255 (i - 1) j (by omega) hj hlt).trans ?_
  simp only [Nat.add_sub_cancel' h1]

/-- After a write of all rows a row is read as it was written. -/
theorem devRow_of_rows (hm : t.mem = Memory.writeRange s.mem (devBase + 256) (usedRows.flatMap f))
    (hf : ∀ i, (f i).length = 256) (h1 : 1 ≤ i) (hi : i < 256) : devRow t i = f i := by
  refine List.ext_getElem ((length_devRow t i).trans (hf i).symm) fun j _ hj => ?_
  rw [hf] at hj
  simp only [devRow_eq_map, List.getElem_map, List.getElem_range]
  exact devCell_of_rows hm hf h1 hi hj

/-- A write of all rows keeps every cell outside them. -/
theorem cellsKept_of_rows (hs : Memory.wf s.mem)
    (hm : t.mem = Memory.writeRange s.mem (devBase + 256) (usedRows.flatMap f)) (hf : ∀ i, (f i).length = 256)
    (hr : t.resets = s.resets) : CellsKeptOutside s t 0x10100 0x20000 := by
  have hkept := cellsKept_of_written hs hm hr
  rwa [usedRows, length_rows f hf] at hkept

end Sys2Proof.Machine

/-! PROOFS. Counting bytes by the parity of a mask: a mask other than 0 selects half of them, and a permutation of the
bytes changes no count. -/

namespace Sys2Proof.Machine

/-! ## All bytes, and permutations of them -/

theorem ofNat_byte_inj {m n : Nat} (hm : m < 256) (hn : n < 256) : BitVec.ofNat 8 m = BitVec.ofNat 8 n ↔ m = n := by
  rw [← BitVec.toNat_inj, BitVec.toNat_ofNat, BitVec.toNat_ofNat]
  omega

theorem ofNat_byte_ne_zero {n : Nat} (h1 : 1 ≤ n) (hn : n < 256) : BitVec.ofNat 8 n ≠ 0#8 :=
  fun h => absurd ((ofNat_byte_inj hn (by omega)).1 h) (by omega)

/-- The 256 bytes, rising. -/
def bytes : List Byte := (List.range 256).map (BitVec.ofNat 8)

@[simp] theorem length_bytes : bytes.length = 256 := by rw [bytes, List.length_map, List.length_range]

theorem mem_bytes (x : Byte) : x ∈ bytes :=
  List.mem_map.2 ⟨x.toNat, List.mem_range.2 x.isLt, BitVec.eq_of_toNat_eq (Nat.mod_eq_of_lt x.isLt)⟩

theorem nodup_bytes : bytes.Nodup :=
  List.nodup_range.map_on fun _ hm _ hn h => (ofNat_byte_inj (List.mem_range.1 hm) (List.mem_range.1 hn)).1 h

/-- A permutation of the bytes lists them in another order. -/
theorem map_bytes_perm {f : Byte → Byte} (hf : f.Injective) : (bytes.map f).Perm bytes := by
  refine (List.perm_ext_iff_of_nodup (nodup_bytes.map hf) nodup_bytes).2 fun y => ?_
  obtain ⟨x, rfl⟩ := Finite.surjective_of_injective hf y
  exact iff_of_true (List.mem_map_of_mem (mem_bytes x)) (mem_bytes _)

theorem countP_bytes_comp {f : Byte → Byte} (hf : f.Injective) (p : Byte → Bool) :
    bytes.countP (fun k => p (f k)) = bytes.countP p := by
  rw [← (map_bytes_perm hf).countP_eq p, List.countP_map]
  rfl

/-- A count over the numbers below 256 is a count over the bytes. -/
theorem countP_range_eq {q : Nat → Bool} {p : Byte → Bool} (h : ∀ k < 256, q k = p (BitVec.ofNat 8 k)) :
    (List.range 256).countP q = bytes.countP p := by
  rw [bytes, List.countP_map]
  exact List.countP_congr fun k hk => by rw [h k (List.mem_range.1 hk), Function.comp_apply]

/-! ## Counts of two conditions -/

/-- A list is counted by a condition and by its negation. -/
theorem countP_add_countP_not {α : Type} (l : List α) (p : α → Bool) :
    l.countP p + l.countP (fun a => !p a) = l.length := by
  rw [l.length_eq_countP_add_countP p]
  simp

/-- Counting where two conditions agree. -/
theorem countP_beq {α : Type} (l : List α) (p q : α → Bool) :
    l.countP (fun a => p a == q a) + l.countP p + l.countP q = l.length + 2 * l.countP (fun a => p a && q a) := by
  induction l with
  | nil => rfl
  | cons a l ih =>
    simp only [List.countP_cons, List.length_cons]
    cases p a <;> cases q a <;> simp <;> omega

/-! ## The parity of a mask -/

/-- The parity of one bit of a mask is that bit. -/
theorem parity_and_twoPow (m : Byte) {b : Nat} (hb : b < 8) : parity (m &&& BitVec.twoPow 8 b) = m.getLsbD b := by
  interval_cases b <;> simp [parity]

theorem exists_parity_and {m : Byte} (hm : m ≠ 0#8) : ∃ x : Byte, parity (m &&& x) = true := by
  obtain ⟨d, hd, -⟩ := exists_hasDegree hm
  exact ⟨BitVec.twoPow 8 d, (parity_and_twoPow m (BitVec.lt_of_getLsbD hd)).trans hd⟩

/-- A mask other than 0 has odd parity on half of the bytes: adding a byte of odd parity swaps the halves. -/
theorem countP_parity {m : Byte} (hm : m ≠ 0#8) : bytes.countP (fun k => parity (m &&& k)) = 128 := by
  obtain ⟨x, hx⟩ := exists_parity_and hm
  have hinj : Function.Injective fun k : Byte => k ^^^ x := fun k l h => (BitVec.xor_left_inj x).1 h
  have hswap := countP_bytes_comp hinj fun k => parity (m &&& k)
  simp only [parity_and_xor, hx, Bool.xor_true] at hswap
  have hall := countP_add_countP_not bytes fun k => parity (m &&& k)
  rw [length_bytes] at hall
  omega

theorem countP_not_parity {m : Byte} (hm : m ≠ 0#8) : bytes.countP (fun k => !parity (m &&& k)) = 128 := by
  have hall := countP_add_countP_not bytes fun k => parity (m &&& k)
  rw [countP_parity hm, length_bytes] at hall
  omega

end Sys2Proof.Machine

/-! PROOFS. The linear analyzer (R180 to R182): the tallies as counts over all bytes, the deviations of an S-box given
as a function, and what LINAN leaves in DEV (O31 to O33). -/

namespace Sys2Proof.Machine

variable {s t : State} {f : Byte → Byte} {i j : Byte}

/-! ## The tallies (R180) -/

/-- Whether mask j counts input byte k: mask 0 counts every byte. -/
def chosen (j k : Byte) : Bool := j == 0#8 || parity (j &&& k)

theorem chosen_zero (k : Byte) : chosen 0#8 k = true := rfl

theorem chosen_of_ne_zero (hj : j ≠ 0#8) : chosen j = fun k => parity (j &&& k) := by
  funext k
  rw [chosen, beq_false_of_ne hj, Bool.false_or]

/-- The loop over the input bytes counts those chosen, by the parity of the output under mask i. -/
theorem foldl_tallyStep (f : Byte → Byte) (i j : Byte) (l : List Byte) (a : Tally) :
    l.foldl (fun a k => tallyStep i j a (f k) k) a =
      { eq := a.eq + l.countP fun k => parity (f k &&& i) && chosen j k
        ne := a.ne + l.countP fun k => !parity (f k &&& i) && chosen j k
        sum := a.sum + l.countP (chosen j) } := by
  induction l generalizing a with
  | nil => rfl
  | cons k l ih =>
    rw [List.foldl_cons, ih, tallyStep, ← chosen]
    cases hc : chosen j k <;> cases hp : parity (f k &&& i) <;> simp [hc, hp, Nat.add_assoc, Nat.add_comm 1]

/-- The tallies of an S-box given as a function on bytes. -/
theorem tally_bytes (f : Byte → Byte) (i j : Byte) :
    tally (bytes.map f) i j =
      { eq := bytes.countP fun k => parity (f k &&& i) && chosen j k
        ne := bytes.countP fun k => !parity (f k &&& i) && chosen j k
        sum := bytes.countP (chosen j) } := by
  have hzip : (bytes.map f).zipIdx.map (fun c => (c.1, BitVec.ofNat 8 c.2)) = bytes.map fun k => (f k, k) := by
    apply List.ext_getElem <;> simp [bytes]
  have hfold := foldl_tallyStep f i j bytes { eq := 0, ne := 0, sum := 0 }
  simp only [Nat.zero_add] at hfold
  rw [← hfold, tally]
  calc _ = ((bytes.map f).zipIdx.map fun c => (c.1, BitVec.ofNat 8 c.2)).foldl
        (fun a c => tallyStep i j a c.1 c.2) { eq := 0, ne := 0, sum := 0 } := by rw [List.foldl_map]
    _ = _ := by rw [hzip, List.foldl_map]

/-- Mask 0 counts all bytes, any other mask half of them (R183). -/
theorem sum_tally (f : Byte → Byte) (i j : Byte) :
    (tally (bytes.map f) i j).sum = if j = 0x00#8 then 256 else 128 := by
  simp only [tally_bytes]
  split
  case isTrue hj =>
    subst hj
    exact (List.countP_eq_length.2 fun k _ => chosen_zero k).trans length_bytes
  case isFalse hj =>
    rw [chosen_of_ne_zero hj]
    exact countP_parity hj

theorem eq_add_ne_tally (f : Byte → Byte) (i j : Byte) :
    (tally (bytes.map f) i j).eq + (tally (bytes.map f) i j).ne = (tally (bytes.map f) i j).sum := by
  have h := countP_add_countP_not (bytes.filter (chosen j)) fun k => parity (f k &&& i)
  rw [List.countP_filter, List.countP_filter, ← List.countP_eq_length_filter] at h
  simpa only [tally_bytes] using h

/-! ## The deviations (R181) -/

/-- A deviation fits a byte. -/
theorem toNat_deviation (S : List Byte) (i j : Byte) : (deviation S i j).toNat =
    128 * ((tally S i j).sum - 2 * min (tally S i j).eq (tally S i j).ne) / (tally S i j).sum := by
  have hle : 128 * ((tally S i j).sum - 2 * min (tally S i j).eq (tally S i j).ne) / (tally S i j).sum ≤ 128 :=
    Nat.div_le_of_le_mul (by rw [Nat.mul_comm]; exact Nat.mul_le_mul_right _ (Nat.sub_le ..))
  rw [deviation, BitVec.toNat_ofNat]
  exact Nat.mod_eq_of_lt (by omega)

/-- Under an input mask other than 0 the quotient cancels, since the sum is 128 (R183). -/
theorem toNat_deviation_of_ne_zero (f : Byte → Byte) (i : Byte) (hj : j ≠ 0#8) :
    (deviation (bytes.map f) i j).toNat =
      128 - 2 * min (tally (bytes.map f) i j).eq (tally (bytes.map f) i j).ne := by
  rw [toNat_deviation, sum_tally, if_neg hj]
  omega

/-- An output bit that is constant deviates fully. -/
theorem toNat_deviation_of_constant {b : Bool} (h : ∀ k, parity (f k &&& i) = b) (j : Byte) :
    (deviation (bytes.map f) i j).toNat = 128 := by
  have hmin : min (tally (bytes.map f) i j).eq (tally (bytes.map f) i j).ne = 0 := by
    simp only [tally_bytes, h]
    cases b <;> simp
  rw [toNat_deviation, hmin, sum_tally]
  split <;> rfl

/-- A permutation's output bits are balanced. -/
theorem countP_parity_comp (hf : f.Injective) (hi : i ≠ 0#8) : bytes.countP (fun k => parity (f k &&& i)) = 128 := by
  rw [countP_bytes_comp hf fun k => parity (k &&& i)]
  simp only [BitVec.and_comm _ i]
  exact countP_parity hi

/-- A permutation does not deviate under input mask 0 (R183). -/
theorem toNat_deviation_zero (hf : f.Injective) (hi : i ≠ 0#8) : (deviation (bytes.map f) i 0#8).toNat = 0 := by
  have heq : (tally (bytes.map f) i 0#8).eq = 128 := by
    simp only [tally_bytes, chosen_zero, Bool.and_true]
    exact countP_parity_comp hf hi
  have hne := eq_add_ne_tally f i 0#8
  rw [sum_tally, if_pos rfl] at hne
  rw [toNat_deviation, sum_tally, if_pos rfl]
  omega

/-- The input bytes on which the masked input and output have one parity. -/
def matchCount (f : Byte → Byte) (i j : Byte) : Nat :=
  bytes.countP fun k => parity (f k &&& i) == parity (j &&& k)

/-- A permutation's deviation is its match count's distance from 128 (R183). -/
theorem toNat_deviation_of_injective (hf : f.Injective) (hi : i ≠ 0#8) (hj : j ≠ 0#8) :
    ((deviation (bytes.map f) i j).toNat : Int) = |(matchCount f i j : Int) - 128| := by
  have hmatch := countP_beq bytes (fun k => parity (f k &&& i)) fun k => parity (j &&& k)
  rw [countP_parity_comp hf hi, countP_parity hj, length_bytes, ← matchCount] at hmatch
  have heq : (tally (bytes.map f) i j).eq = bytes.countP fun k => parity (f k &&& i) && parity (j &&& k) := by
    simp only [tally_bytes, chosen_of_ne_zero hj]
  have hne := eq_add_ne_tally f i j
  rw [sum_tally, if_neg hj] at hne
  rw [toNat_deviation_of_ne_zero f i hj, Int.abs_eq_natAbs]
  omega

/-- The identity matches everywhere under equal masks, and on half of the bytes under different ones. -/
theorem matchCount_id (i j : Byte) : matchCount id i j = if j = i then 256 else 128 := by
  have hbit (k : Byte) : (parity (k &&& i) == parity (j &&& k)) = !parity ((i ^^^ j) &&& k) := by
    simp only [BitVec.and_comm _ k, parity_and_xor]
    cases parity (k &&& i) <;> cases parity (k &&& j) <;> rfl
  simp only [matchCount, id, hbit]
  split
  case isTrue h =>
    subst h
    rw [BitVec.xor_self]
    simp [parity]
  case isFalse h =>
    exact countP_not_parity fun h0 => h (BitVec.xor_eq_zero_iff.1 h0).symm

/-- The deviations of the identity (R182). -/
theorem toNat_deviation_id (hi : i ≠ 0#8) (j : Byte) :
    (deviation (bytes.map id) i j).toNat = if j = i then 128 else 0 := by
  by_cases hj : j = 0#8
  · rw [hj, toNat_deviation_zero Function.injective_id hi, if_neg hi.symm]
  · have h := toNat_deviation_of_injective Function.injective_id hi hj
    rw [matchCount_id, Int.abs_eq_natAbs] at h
    split_ifs at h ⊢ <;> omega

/-- The S-box of R183's last property: it clears the low bit. -/
def clearLow (k : Byte) : Byte := k &&& 0xFE#8

/-- Its output bit under mask 1 is 0. -/
theorem parity_clearLow (k : Byte) : parity (clearLow k &&& 0x01#8) = false := by
  rw [clearLow, BitVec.and_assoc, show 0xFE#8 &&& 0x01#8 = 0#8 from rfl, BitVec.and_zero]
  rfl

/-- It matches input mask 1 on the even bytes. -/
theorem matchCount_clearLow : matchCount clearLow 0x01#8 0x01#8 = 128 := by
  simp only [matchCount, parity_clearLow, Bool.false_beq]
  exact countP_not_parity (by decide)

/-! ## LINAN (R182) -/

/-- SBOX as a function on bytes. -/
def sbox (s : State) (k : Byte) : Byte := readByte s (0x200 + k.toNat)

theorem sbox_ofNat (s : State) {k : Nat} (hk : k < 256) : sbox s (BitVec.ofNat 8 k) = readByte s (0x200 + k) := by
  rw [sbox, BitVec.toNat_ofNat, Nat.mod_eq_of_lt hk]

theorem sboxTable_eq (s : State) : sboxTable s = bytes.map (sbox s) := by
  rw [sboxTable, readBytes_eq_map, bytes, List.map_map]
  exact List.map_congr_left fun k hk => (sbox_ofNat s (List.mem_range.1 hk)).symm

/-- An S-box whose entries are those of a function is that function. -/
theorem sbox_eq (h : ∀ k < 256, readByte s (0x200 + k) = f (BitVec.ofNat 8 k)) : sbox s = f := by
  funext k
  rw [sbox, h k.toNat k.isLt, BitVec.ofNat_toNat, BitVec.setWidth_eq]

theorem injective_sbox
    (h : ∀ k l, k < 256 → l < 256 → readByte s (0x200 + k) = readByte s (0x200 + l) → k = l) :
    (sbox s).Injective :=
  fun k l hkl => BitVec.eq_of_toNat_eq (h k.toNat l.toNat k.isLt l.isLt hkl)

/-- The match count of SBOX, over the input bytes as numbers. -/
theorem countP_matches (s : State) (i j : Byte) :
    (List.range 256).countP (fun k => parity (j &&& BitVec.ofNat 8 k) == parity (i &&& readByte s (0x200 + k))) =
      matchCount (sbox s) i j :=
  countP_range_eq fun k hk => by rw [sbox_ofNat s hk, Bool.beq_comm, BitVec.and_comm i]

theorem mem_linan (h : exec .linan s = .next t) :
    t.mem = Memory.writeRange s.mem (devBase + 256) (usedRows.flatMap (deviationRow (sboxTable s))) := by
  rw [← Host.Outcome.next.inj ((exec_linan s).symm.trans h), writeDev_mem]

/-- LINAN leaves the deviation of SBOX in each cell of the used rows. -/
theorem devCell_linan (h : exec .linan s = .next t) {i j : Nat} (h1 : 1 ≤ i) (hi : i < 256) (hj : j < 256) :
    devCell t i j = deviation (bytes.map (sbox s)) (BitVec.ofNat 8 i) (BitVec.ofNat 8 j) := by
  rw [devCell_of_rows (mem_linan h) (length_deviationRow _) h1 hi hj, ← sboxTable_eq]
  simp only [deviationRow, List.getElem_map, List.getElem_range]

/-- Beside its write LINAN changes nothing. (For any cells: the kernel must not evaluate the deviations.) -/
theorem frame_of_writeDev {cells : List Byte} (h : writeDev cells s = t) : t = { s with mem := t.mem } := by
  subst h
  rfl

/-- The choice of a mask given as a number. -/
theorem chosen_ofNat {j : Nat} (hj : j < 256) (k : Nat) :
    (decide (j = 0) || parity (BitVec.ofNat 8 j &&& BitVec.ofNat 8 k)) =
      chosen (BitVec.ofNat 8 j) (BitVec.ofNat 8 k) := by
  rw [chosen, beq_eq_decide, decide_eq_decide.2 (ofNat_byte_inj hj (n := 0) (by omega))]

/-- How many input bytes, as numbers, a mask chooses. -/
theorem length_filter_chosen {j : Nat} (hj : j < 256) :
    ((List.range 256).filter fun k =>
      decide (j = 0) || parity (BitVec.ofNat 8 j &&& BitVec.ofNat 8 k)).length =
      bytes.countP (chosen (BitVec.ofNat 8 j)) := by
  rw [← List.countP_eq_length_filter]
  exact countP_range_eq fun k _ => chosen_ofNat hj k

/-- How many of the chosen input bytes, as numbers, meet a condition. -/
theorem countP_filter_chosen {j : Nat} (hj : j < 256) {q : Nat → Bool} {p : Byte → Bool}
    (h : ∀ k < 256, q k = p (BitVec.ofNat 8 k)) :
    ((List.range 256).filter fun k =>
      decide (j = 0) || parity (BitVec.ofNat 8 j &&& BitVec.ofNat 8 k)).countP q =
      bytes.countP fun k => p k && chosen (BitVec.ofNat 8 j) k := by
  rw [List.countP_filter]
  exact countP_range_eq fun k hk => by rw [h k hk, chosen_ofNat hj]

/-- Settles O31: the tallies are the counts over the chosen input bytes. -/
theorem linanDeviations : Obligations.LinanDeviations := by
  intro s
  obtain ⟨t, h⟩ := exec_next .linan s
  obtain ⟨-, -, -, -, -, -, -, -, -, hresets⟩ := exec_keeps h
  refine ⟨t, h, fun i j h1 hi hj => ?_,
    fun hwf => cellsKept_of_rows hwf (mem_linan h) (length_deviationRow _) hresets,
    frame_of_writeDev (Host.Outcome.next.inj ((exec_linan s).symm.trans h))⟩
  have heq := countP_filter_chosen hj (p := fun x => parity (sbox s x &&& BitVec.ofNat 8 i))
    fun k hk => by rw [sbox_ofNat s hk]
  have hne := countP_filter_chosen hj (p := fun x => !parity (sbox s x &&& BitVec.ofNat 8 i))
    fun k hk => by rw [sbox_ofNat s hk]
  rw [devCell_linan h h1 hi hj, toNat_deviation, tally_bytes]
  simp only [length_filter_chosen hj, heq, hne]

/-- Settles O32, by the counts of a mask's parity over the bytes and over a permutation of them. -/
theorem linanDeviationProperties : Obligations.LinanDeviationProperties := by
  intro s
  obtain ⟨t, h⟩ := exec_next .linan s
  refine ⟨t, h, fun i j => ?_, fun i j h1 hi hj1 hj => ?_,
    fun hperm => ⟨fun i h1 hi => ?_, fun i j h1 hi hj1 hj => ?_⟩, fun heven => ⟨?_, ?_⟩⟩
  · rw [sboxTable_eq, sum_tally]
  · rw [devCell_linan h h1 hi hj, toNat_deviation_of_ne_zero _ _ (ofNat_byte_ne_zero hj1 hj)]
    omega
  · rw [devCell_linan h h1 hi (by omega)]
    exact BitVec.eq_of_toNat_eq (toNat_deviation_zero (injective_sbox hperm) (ofNat_byte_ne_zero h1 hi))
  · rw [devCell_linan h h1 hi hj, toNat_deviation_of_injective (injective_sbox hperm) (ofNat_byte_ne_zero h1 hi)
      (ofNat_byte_ne_zero hj1 hj), ← countP_matches]
  · rw [devCell_linan h le_rfl (by omega) (by omega), sbox_eq (f := clearLow) heven]
    exact toNat_deviation_of_constant parity_clearLow _
  · rw [countP_matches, sbox_eq (f := clearLow) heven, matchCount_clearLow]

/-- Settles O33: under the identity the match count decides, under a constant every output bit is constant. -/
theorem linanIdentityAndConstant : Obligations.LinanIdentityAndConstant := by
  intro s
  obtain ⟨t, h⟩ := exec_next .linan s
  refine ⟨t, h, fun hid i j h1 hi hj => ?_, fun c hc i j h1 hi hj => ?_⟩
  · rw [devCell_linan h h1 hi hj, sbox_eq (f := id) hid, toNat_deviation_id (ofNat_byte_ne_zero h1 hi)]
    simp only [ofNat_byte_inj hj hi]
  · rw [devCell_linan h h1 hi hj, sbox_eq (f := fun _ => c) hc]
    exact toNat_deviation_of_constant (fun _ => rfl) _

end Sys2Proof.Machine

/-! PROOFS. The sorter (R184, R185): a sorted row is the one non-decreasing arrangement of its values, GMAX is the
largest last element, and sorting sorted rows changes nothing (O34, O35). -/

namespace Sys2Proof.Machine

variable {s t : State} {i j : Nat} {v w : List Byte}

/-! ## A sorted row (R184) -/

theorem perm_sortrow (v : List Byte) : (sortrow v).Perm v := List.perm_insertionSort ..

theorem pairwise_sortrow (v : List Byte) : (sortrow v).Pairwise fun x y => x ≤ y := by
  have : Std.Total fun x y : Byte => x ≤ y := ⟨BitVec.le_total⟩
  have : IsTrans Byte fun x y => x ≤ y := ⟨fun _ _ _ => BitVec.le_trans⟩
  exact List.pairwise_insertionSort ..

/-- Two non-decreasing arrangements of the same values are one. -/
theorem eq_sortrow (hv : v.Pairwise fun x y => x ≤ y) (hp : v.Perm w) : sortrow w = v :=
  ((perm_sortrow w).trans hp.symm).eq_of_pairwise (fun _ _ _ _ => BitVec.le_antisymm) (pairwise_sortrow w) hv

theorem sortrow_sortrow (v : List Byte) : sortrow (sortrow v) = sortrow v :=
  eq_sortrow (pairwise_sortrow v) (.refl _)

/-- The last element of a sorted row is its maximum (R185). -/
theorem le_rowLast_sortrow (hv : v.length = 256) {x : Byte} (hx : x ∈ v) : x ≤ rowLast (sortrow v) := by
  have hlen : (sortrow v).length = 256 := (length_sortrow v).trans hv
  obtain ⟨n, hn, rfl⟩ := List.getElem_of_mem ((perm_sortrow v).mem_iff.2 hx)
  rw [rowLast, List.getD_eq_getElem _ _ (by omega)]
  rcases Nat.lt_or_ge n 255 with h | h
  · exact List.pairwise_iff_getElem.1 (pairwise_sortrow v) n 255 hn (by omega) h
  · simp only [show n = 255 by omega]
    exact BitVec.le_refl _

/-! ## The largest of a list of bytes -/

theorem maxByte_eq_or (x y : Byte) : maxByte x y = x ∨ maxByte x y = y := by
  rw [maxByte]
  exact (ite_eq_or_eq ..).symm

theorem le_maxByte_left (x y : Byte) : x ≤ maxByte x y := by
  rw [maxByte]
  split
  case isTrue h => exact h
  case isFalse => exact BitVec.le_refl x

theorem le_maxByte_right (x y : Byte) : y ≤ maxByte x y := by
  rw [maxByte]
  split
  case isTrue => exact BitVec.le_refl y
  case isFalse h => exact (BitVec.le_total x y).resolve_left h

/-- The running maximum is the start or a member of the list. -/
theorem foldl_maxByte_mem (l : List Byte) (x : Byte) : l.foldl maxByte x ∈ x :: l := by
  induction l generalizing x with
  | nil => exact List.mem_cons_self
  | cons z l ih =>
    rw [List.foldl_cons]
    rcases maxByte_eq_or x z with h | h <;> rw [h]
    · exact (List.sublist_cons_self z l).cons_cons x |>.subset (ih x)
    · exact List.mem_cons_of_mem x (ih z)

/-- The running maximum is no smaller than the start and the members. -/
theorem le_foldl_maxByte {l : List Byte} {x y : Byte} (hy : y ∈ x :: l) : y ≤ l.foldl maxByte x := by
  induction l generalizing x y with
  | nil => exact (List.mem_singleton.1 hy) ▸ BitVec.le_refl x
  | cons z l ih =>
    rw [List.foldl_cons]
    have hstart : maxByte x z ≤ l.foldl maxByte (maxByte x z) := ih List.mem_cons_self
    rcases List.mem_cons.1 hy with rfl | hy
    · exact BitVec.le_trans (le_maxByte_left y z) hstart
    · rcases List.mem_cons.1 hy with rfl | hy
      · exact BitVec.le_trans (le_maxByte_right x y) hstart
      · exact ih (List.mem_cons_of_mem _ hy)

/-- The maximum from 0 on, of a list that is not empty, is a member of the list. -/
theorem foldl_maxByte_zero_mem {l : List Byte} (hl : l ≠ []) : l.foldl maxByte 0#8 ∈ l := by
  obtain ⟨x, l, rfl⟩ := List.exists_cons_of_ne_nil hl
  rw [List.foldl_cons, maxByte, if_pos (BitVec.le_def.2 (Nat.zero_le _))]
  exact foldl_maxByte_mem l x

/-! ## SORT (R185) -/

/-- The row that SORT stores. -/
def sortedRow (s : State) (i : Nat) : List Byte := sortrow (devRow s i)

theorem length_sortedRow (s : State) (i : Nat) : (sortedRow s i).length = 256 := by
  rw [sortedRow, length_sortrow, length_devRow]

/-- The value that SORT stores in GMAX. -/
def largestLast (s : State) : Byte := ((usedRows.map (sortedRow s)).map rowLast).foldl maxByte 0#8

theorem exec_sort_eq (s : State) :
    exec .sort s = .next (writeGmax (largestLast s) (writeDev (usedRows.flatMap (sortedRow s)) s)) := by
  rw [exec_sort, List.flatMap_def]
  rfl

theorem mem_usedRows : i ∈ usedRows ↔ 1 ≤ i ∧ i < 256 := List.mem_range'_1

/-- Every cell of the used rows is at most the largest last element. -/
theorem le_largestLast (h1 : 1 ≤ i) (hi : i < 256) {x : Byte} (hx : x ∈ devRow s i) : x ≤ largestLast s := by
  refine BitVec.le_trans (le_rowLast_sortrow (length_devRow s i) hx) ?_
  have hmem : rowLast (sortedRow s i) ∈ (usedRows.map (sortedRow s)).map rowLast :=
    List.mem_map_of_mem (List.mem_map_of_mem (mem_usedRows.2 ⟨h1, hi⟩))
  exact le_foldl_maxByte (List.mem_cons_of_mem _ hmem)

/-- The largest last element is the last of some sorted row. -/
theorem exists_largestLast (s : State) : ∃ i, 1 ≤ i ∧ i < 256 ∧ largestLast s = rowLast (sortedRow s i) := by
  have hne : (usedRows.map (sortedRow s)).map rowLast ≠ [] :=
    List.ne_nil_of_mem (List.mem_map_of_mem (List.mem_map_of_mem (mem_usedRows.2 ⟨le_rfl, by omega⟩)))
  obtain ⟨v, hv, hlast⟩ := List.mem_map.1 (foldl_maxByte_zero_mem hne)
  obtain ⟨i, hi, rfl⟩ := List.mem_map.1 hv
  obtain ⟨h1, h256⟩ := mem_usedRows.1 hi
  exact ⟨i, h1, h256, hlast.symm⟩

theorem mem_sort (h : exec .sort s = .next t) :
    t.mem = Memory.writeRange s.mem (devBase + 256) (usedRows.flatMap (sortedRow s)) := by
  rw [← Host.Outcome.next.inj ((exec_sort_eq s).symm.trans h), writeGmax_mem, writeDev_mem]

theorem gmax_sort (h : exec .sort s = .next t) : t.gmax = largestLast s := by
  rw [← Host.Outcome.next.inj ((exec_sort_eq s).symm.trans h), writeGmax_gmax]

/-- SORT leaves the sorted row in each used row. -/
theorem devRow_sort (h : exec .sort s = .next t) (h1 : 1 ≤ i) (hi : i < 256) : devRow t i = sortedRow s i :=
  devRow_of_rows (mem_sort h) (length_sortedRow s) h1 hi

/-- Beside its writes SORT changes nothing. (For any rows: the kernel must not evaluate the sorted ones.) -/
theorem frame_of_writeGmax {g : Byte} {cells : List Byte} (h : writeGmax g (writeDev cells s) = t) :
    t = { s with mem := t.mem, gmax := t.gmax } := by
  subst h
  rfl

/-- Writing the same cells and the same GMAX again changes nothing. -/
theorem writeGmax_writeDev_again (g : Byte) (cells : List Byte) (s : State) :
    writeGmax g (writeDev cells (writeGmax g (writeDev cells s))) = writeGmax g (writeDev cells s) := by
  have hmem : (writeGmax g (writeDev cells (writeGmax g (writeDev cells s)))).mem =
      (writeGmax g (writeDev cells s)).mem :=
    Memory.writeRange_writeRange s.mem (devBase + 256) cells cells rfl
  exact State.ext rfl rfl rfl rfl rfl rfl rfl rfl rfl rfl hmem rfl rfl rfl rfl rfl rfl rfl rfl rfl rfl

/-- The cells of a sorted row do not fall. -/
theorem devCell_sort_le (h : exec .sort s = .next t) (h1 : 1 ≤ i) (hi : i < 256) (hj : j < 255) :
    devCell t i j ≤ devCell t i (j + 1) := by
  have hrow : (devRow t i).Pairwise fun x y => x ≤ y := by
    rw [devRow_sort h h1 hi]
    exact pairwise_sortrow (devRow s i)
  have hlen := length_devRow t i
  have hle := List.pairwise_iff_getElem.1 hrow j (j + 1) (by omega) (by omega) (by omega)
  simpa only [devRow_eq_map, List.getElem_map, List.getElem_range] using hle

/-- The last cell of a sorted row. -/
theorem devCell_sort_last (h : exec .sort s = .next t) (h1 : 1 ≤ i) (hi : i < 256) :
    devCell t i 255 = rowLast (sortedRow s i) := by
  rw [devCell_of_rows (mem_sort h) (length_sortedRow s) h1 hi (by omega), rowLast, List.getD_eq_getElem]

theorem devCell_mem_devRow (s : State) (i : Nat) (hj : j < 256) : devCell s i j ∈ devRow s i := by
  rw [devRow_eq_map]
  exact List.mem_map_of_mem (List.mem_range.2 hj)

/-- The last element of a sorted row stood in the row. -/
theorem exists_devCell_eq_rowLast (s : State) (i : Nat) : ∃ j < 256, devCell s i j = rowLast (sortedRow s i) := by
  have hlt : 255 < (sortedRow s i).length := by
    rw [length_sortedRow]
    omega
  have hmem : rowLast (sortedRow s i) ∈ devRow s i := by
    rw [rowLast, List.getD_eq_getElem _ _ hlt]
    exact (perm_sortrow _).mem_iff.1 (List.getElem_mem hlt)
  rw [devRow_eq_map] at hmem
  obtain ⟨j, hj, he⟩ := List.mem_map.1 hmem
  exact ⟨j, List.mem_range.1 hj, he⟩

/-- Settles O34, by what a sorted row is and by the maximum of the last elements. -/
theorem sortOrdersRows : Obligations.SortOrdersRows := by
  intro s
  obtain ⟨t, h⟩ := exec_next .sort s
  obtain ⟨i, h1, hi, hlast⟩ := exists_largestLast s
  obtain ⟨-, -, -, -, -, -, -, -, -, hresets⟩ := exec_keeps h
  refine ⟨t, h, fun i h1 hi => ⟨fun j hj => devCell_sort_le h h1 hi hj, ?_⟩, fun i j h1 hi hj => ?_, ?_, ?_,
    fun hwf => cellsKept_of_rows hwf (mem_sort h) (length_sortedRow s) hresets,
    frame_of_writeGmax (Host.Outcome.next.inj ((exec_sort_eq s).symm.trans h))⟩
  · rw [← devRow_eq_map, ← devRow_eq_map, devRow_sort h h1 hi]
    exact perm_sortrow _
  · rw [gmax_sort h]
    exact le_largestLast h1 hi (devCell_mem_devRow s i hj)
  · obtain ⟨j, hj, he⟩ := exists_devCell_eq_rowLast s i
    exact ⟨i, j, h1, hi, hj, by rw [he, gmax_sort h, hlast]⟩
  · exact ⟨i, h1, hi, by rw [devCell_sort_last h h1 hi, gmax_sort h, hlast]⟩

/-- Sorting sorted rows stores the same rows. -/
theorem sortedRow_sort (h : exec .sort s = .next t) (hi : i ∈ usedRows) : sortedRow t i = sortedRow s i := by
  obtain ⟨h1, hi⟩ := mem_usedRows.1 hi
  rw [sortedRow, devRow_sort h h1 hi]
  exact sortrow_sortrow (devRow s i)

/-- Settles O35: a non-decreasing arrangement is unique, and a second SORT writes what stands there. -/
theorem sortIsUniqueAndIdempotent : Obligations.SortIsUniqueAndIdempotent := by
  refine ⟨fun s t i v h h1 hi hv hp => ?_, fun s t h => ?_⟩
  · rw [← devRow_eq_map] at hp ⊢
    rw [devRow_sort h h1 hi]
    exact eq_sortrow hv hp
  · have hrows : usedRows.map (sortedRow t) = usedRows.map (sortedRow s) :=
      List.map_congr_left fun i hi => sortedRow_sort h hi
    rw [exec_sort_eq, largestLast, List.flatMap_def, hrows, ← List.flatMap_def, ← largestLast,
      ← Host.Outcome.next.inj ((exec_sort_eq s).symm.trans h), writeGmax_writeDev_again]

end Sys2Proof.Machine

/-! PROOFS. What sets an ERR bit (O39): one raised error, in a read or a write that does nothing else. -/

namespace Sys2Proof.Machine

variable {s : State} {a : Addr} {w : Word} {n : Nat}

/-- The bit that a raised error newly sets is its cause's (60_exceptions.md R230). -/
theorem eq_bit_of_raise {c : Cause} (hs : s.err.getLsbD n = false) (ht : (raise c s).err.getLsbD n = true) :
    n = c.bit := by
  rwa [raise_getLsbD, hs, Bool.false_or, decide_eq_true_iff] at ht

/-- A read that sets an ERR bit sets it alone and returns 0 (60_exceptions.md R233). -/
theorem hostRead_of_sets_err (hs : s.err.getLsbD n = false) (ht : (hostRead a s).err.getLsbD n = true) :
    hostRead a s = { s with err := s.err ||| (1#4 <<< n), rdata := 0#32 } := by
  rcases hostRead_err a s with h | h
  · rw [h] at ht ⊢
    rw [eq_bit_of_raise (s := { s with rdata := 0#32 }) hs ht, raise]
  · rw [h, hs] at ht
    cases ht

/-- A write that sets an ERR bit raises one error and does nothing else; the write to ERR itself only clears
(60_exceptions.md R236). -/
theorem hostWrite_of_sets_err (hs : s.err.getLsbD n = false) (ht : (hostWrite a w s).err.getLsbD n = true) :
    hostWrite a w s = { s with err := s.err ||| (1#4 <<< n) } := by
  rcases hostWrite_err a w s with ⟨c, h⟩ | h | ⟨hl, -⟩
  · rw [h] at ht ⊢
    rw [eq_bit_of_raise hs ht, raise]
  · rw [h, hs] at ht
    cases ht
  · rw [hostWrite_of_reg hl, getLsbD_writeReg_err n (BitVec.lt_of_getLsbD ht), hs] at ht
    cases ht

/-- Settles O39: no completion, poll or reset sets an ERR bit, and a read or a write only as `hostRead_of_sets_err` and
`hostWrite_of_sets_err` say. -/
theorem errorsAreSingleAndPrecise : Obligations.ErrorsAreSingleAndPrecise := by
  intro s t n hst hs ht
  have fresh : t.err ≠ s.err := fun h => by rw [h, hs] at ht; cases ht
  rcases step_cases hst with ⟨i, u, -, -, hu, rfl⟩ | ⟨-, -, rfl⟩ | ⟨e, rest, he, rfl⟩
  · obtain ⟨-, -, herr, -⟩ := exec_keeps hu
    exact absurd herr fresh
  · exact absurd rfl fresh
  · refine ⟨e, rest, he, ?_⟩
    cases e with
    | read a => exact .inl ⟨a, rfl, hostRead_of_sets_err (s := s.popped rest) hs ht⟩
    | write a w => exact .inr ⟨a, w, rfl, hostWrite_of_sets_err (s := s.popped rest) hs ht⟩
    | poll => exact absurd (by rw [hostEvent_poll]; rfl) fresh
    | reset =>
      rw [hostEvent, assertReset_err, BitVec.getLsbD_zero] at ht
      cases ht

end Sys2Proof.Machine

/-! PROOFS. The reset (70_reset_and_hazards.md §1): the state right after it (O12, O57), the reset input at any time
(O58), and that an accepted command completes unless a reset comes first (O41). -/

namespace Sys2Proof.Machine

variable {s t u v : State} {e : HostEvent} {rest : List HostEvent}

/-! ## The state right after reset -/

/-- Settles O12: the invariant sees none of the fields in which `State.reset` and a reset input differ. -/
theorem resetHasInvariant : Obligations.ResetHasInvariant :=
  { assertReset_inv State.reset with }

/-- Settles O57: the fields are the stated ones, and the words are computed from them. -/
theorem resetRegisterValues : Obligations.ResetRegisterValues :=
  ⟨rfl, rfl, rfl, rfl, rfl, rfl, rfl, rfl, rfl, rfl, rfl, rfl, rfl, rfl, Memory.get?_nil, Memory.get?_nil⟩

/-! ## The reset input -/

/-- After the reset input a byte cell holds the unspecified value of the new epoch (10_state.md R46). -/
@[simp] theorem readByte_assertReset (s : State) (a : Nat) :
    readByte (assertReset s) a = Config.unwrittenByte (s.resets + 1) a := by
  rw [readByte, assertReset_mem, assertReset_resets, Memory.get?_nil, Option.getD_none]

/-- After the reset input an entry of IRR holds the unspecified value of the new epoch (10_state.md R46). -/
@[simp] theorem readIrr_assertReset (s : State) (n : Nat) :
    readIrr (assertReset s) n = Config.unwrittenIrr (s.resets + 1) n := by
  rw [readIrr, assertReset_irr, assertReset_resets, Memory.get?_nil, Option.getD_none]

/-- POLY is 0x11B after the reset input (10_state.md R30). -/
@[simp] theorem polyReg_assertReset (s : State) : polyReg (assertReset s) = 0x11B#9 := by
  rw [polyReg, assertReset_poly]
  rfl

/-- irq is 0 after the reset input: IE is (10_state.md R44). -/
@[simp] theorem irq_assertReset (s : State) : irq (assertReset s) = false := by
  rw [irq, assertReset_ie, BitVec.getLsbD_zero, BitVec.getLsbD_zero, Bool.false_and, Bool.false_and, Bool.or_false]

/-- STATUS reads 0 after the reset input, each of its six bits being 0 (10_state.md R22 to R27). -/
@[simp] theorem statusWord_assertReset (s : State) : statusWord (assertReset s) = 0#32 := by
  rw [statusWord, irq_assertReset, errp, nirr, assertReset_err, assertReset_unres, assertReset_eq1, assertReset_done,
    assertReset_busy]
  rfl

/-- The step of the reset input. -/
theorem step_reset (ht : s.HostTurn .reset rest) : step s = .next (assertReset (s.popped rest)) :=
  step_of_hostTurn ht

/-- Settles O58: the step is `assertReset`, with the laws of the words computed after it. -/
theorem resetInput : Obligations.ResetInput := by
  intro s rest ht
  exact ⟨_, step_reset ht, rfl, rfl, rfl, rfl, rfl, polyReg_assertReset _, rfl, rfl, rfl, rfl, rfl, rfl,
    irq_assertReset _, statusWord_assertReset _, rfl, readByte_assertReset _, readIrr_assertReset _⟩

/-! ## The host events before a completion -/

/-- `u` differs from `s` at most in ERR, IE, DONE, and what the host itself sees and does: LCMD and all that its command
computes from are the same, and BUSY is (20_memory.md R71). -/
def CommandKept (s u : State) : Prop :=
  u = { s with
    err := u.err, ie := u.ie, done := u.done, host := u.host, rdata := u.rdata, wait := u.wait, draws := u.draws }

theorem CommandKept.refl (s : State) : CommandKept s s := rfl

theorem CommandKept.trans (hsu : CommandKept s u) (huv : CommandKept u v) : CommandKept s v := by
  rw [CommandKept, hsu] at huv
  exact huv

theorem CommandKept.busy (h : CommandKept s u) : u.busy = s.busy := by rw [h]

theorem CommandKept.lcmd (h : CommandKept s u) : u.lcmd = s.lcmd := by rw [h]

/-- A poll that meets an executing command stays at the head of the host's list; every other event but reset is gone. -/
theorem host_hostEvent_of_busy (hbusy : s.busy = true) (he : e ≠ .reset) :
    (hostEvent e s).host = if e = .poll then .poll :: s.host else s.host := by
  cases e with
  | read a => rw [hostEvent, hostRead_frame, if_neg (by simp)]
  | write a w =>
    obtain ⟨-, -, -, -, -, -, -, hhost, -⟩ := hostWrite_keeps a w s
    rw [hostEvent, hhost, if_neg (by simp)]
  | poll => rw [hostEvent_poll, if_pos hbusy, if_pos rfl]
  | reset => exact absurd rfl he

/-- The step of an event other than reset that goes before a completion. -/
theorem step_of_pending (hbusy : s.busy = true) (ht : s.HostTurn e rest) (he : e ≠ .reset) :
    ∃ u, step s = .next u ∧ CommandKept s u ∧ u.wait = s.wait - 1 ∧
      u.host = if e = .poll then .poll :: rest else rest := by
  obtain ⟨u, hst, hu⟩ := executingCommandIsAlone s e rest hbusy ht he
  have hwait : u.wait = s.wait - 1 := congrArg State.wait hu
  refine ⟨u, hst, ?_, hwait, ?_⟩
  · rw [CommandKept, hwait]
    exact hu
  · obtain rfl := Host.Outcome.next.inj (hst.symm.trans (step_of_hostTurn ht))
    exact host_hostEvent_of_busy (s := s.popped rest) hbusy he

/-- A reset stands among the host events that go before the completion; a poll keeps those behind it from coming. -/
def State.ResetFirst (s : State) : Prop := .reset ∈ (s.host.take s.wait).takeWhile (· ≠ .poll)

/-- When the event at the head is a reset, it is among them. -/
theorem resetFirst_of_head {n : Nat} (hh : s.host = .reset :: rest) (hw : s.wait = n + 1) : s.ResetFirst := by
  simp [State.ResetFirst, hh, hw]

/-- A reset that goes first after an event's step went first before it. -/
theorem State.ResetFirst.of_step {n : Nat} (hh : s.host = e :: rest) (hw : s.wait = n + 1) (hn : u.wait = n)
    (hu : u.host = if e = .poll then .poll :: rest else rest) (h : u.ResetFirst) : s.ResetFirst := by
  rw [State.ResetFirst, hu, hn] at h
  rw [State.ResetFirst, hh, hw, List.take_succ_cons]
  by_cases he : e = .poll
  · cases n <;> simp [he] at h
  · rw [if_neg he] at h
    rw [List.takeWhile_cons_of_pos (by simpa using he)]
    exact List.mem_cons_of_mem _ h

/-! ## An accepted command completes (70_reset_and_hazards.md R267) -/

theorem StepsTo.snoc {n : Nat} (h : StepsTo n s u) (hst : step u = .next t) : StepsTo (n + 1) s t := by
  induction n generalizing s with
  | zero =>
    obtain rfl : u = s := h
    exact ⟨t, hst, rfl⟩
  | succ n ih =>
    obtain ⟨v, hv, hvu⟩ := h
    exact ⟨v, hv, ih hvu⟩

/-- Within `wait` steps that keep the executing command, its completion is due, or a reset that stood before it is. -/
theorem completion_or_reset_comes (hbusy : s.busy = true) (hl : legal s.lcmd = true) :
    ∃ n ≤ s.wait, ∃ u, StepsTo n s u ∧ CommandKept s u ∧
      ((∃ i, u.CoreTurn i) ∨ (s.ResetFirst ∧ ∃ rest, u.HostTurn .reset rest)) := by
  induction hw : s.wait generalizing s with
  | zero =>
    exact ⟨0, le_rfl, s, rfl, .refl s, .inl (exists_coreTurn (coreMoves_eq_true_iff.2 ⟨hbusy, .inl hw⟩) hl)⟩
  | succ n ih =>
    cases hh : s.host with
    | nil =>
      exact ⟨0, Nat.zero_le _, s, rfl, .refl s,
        .inl (exists_coreTurn (coreMoves_eq_true_iff.2 ⟨hbusy, .inr hh⟩) hl)⟩
    | cons e rest =>
      have ht : s.HostTurn e rest := ⟨hh, by simp [coreMoves, hw, hh]⟩
      by_cases he : e = .reset
      · subst he
        exact ⟨0, Nat.zero_le _, s, rfl, .refl s, .inr ⟨resetFirst_of_head hh hw, rest, ht⟩⟩
      · obtain ⟨u, hst, hsu, hwait, hhost⟩ := step_of_pending hbusy ht he
        have hn : u.wait = n := by omega
        obtain ⟨m, hm, v, huv, hkept, hend⟩ := ih (hsu.busy.trans hbusy) (hsu.lcmd ▸ hl) hn
        exact ⟨m + 1, Nat.succ_le_succ hm, v, ⟨u, hst, huv⟩, hsu.trans hkept,
          hend.imp_right (And.imp_left (.of_step hh hw hn hhost))⟩

/-- Settles O41: what `completion_or_reset_comes` says is due ends BUSY, and is the completion when no reset goes first. -/
theorem acceptedCommandCompletes : Obligations.AcceptedCommandCompletes := by
  intro s hbusy hl
  obtain ⟨n, hn, u, hsu, hkept, hend⟩ := completion_or_reset_comes hbusy hl
  refine ⟨⟨n + 1, Nat.succ_le_succ hn, ?_⟩, fun hnr => ⟨n, hn, ?_⟩⟩
  · rcases hend with ⟨i, hi⟩ | ⟨-, rest, ht⟩
    · obtain ⟨t, hst, hidle, -⟩ := completionEndsHandshake u i hi
      exact ⟨t, hsu.snoc hst, hidle⟩
    · exact ⟨_, hsu.snoc (step_reset ht), rfl⟩
  · obtain ⟨i, hi⟩ := hend.resolve_right fun h => hnr h.1
    obtain ⟨v, hv⟩ := exec_next i u
    exact ⟨i, u, v, hkept.lcmd ▸ hi.2, hsu, hi, hkept, hv, step_of_coreTurn hi hv⟩

end Sys2Proof.Machine
